-- ==== Sys2Proof/Word.lean ====
section
/-! DEFINITION. The one machine word: every transfer moves bytes (R62). Registers are not bit vectors: the spec
gives them as unsigned integers of a width that is a parameter (R12), so they are natural numbers, and each rule
says by what its update is reduced. -/

namespace Sys2Proof

/-- A byte, the unit of every transfer (R12, R62). -/
abbrev Byte := BitVec 8

end Sys2Proof
end

