-- ==== Sys2Proof/Config.lean ====
section
/-! DEFINITION. The parameters of one instance of the block (R8, R9), the reference and the small configuration
(R8, R11), and the free value a read of a never-written byte gives (R48, R49). -/

namespace Sys2Proof

/-- `OVERFLOW_POLICY` (R8): what `RB_WRITE` does with more bytes than fit (R122, R123). -/
inductive OverflowPolicy where
  | drop
  | unguarded
deriving DecidableEq, Repr

/-- `ACK_CODE` (R8): which of the two bytes is the frame-end acknowledgement (R94, R176). -/
inductive AckCode where
  | cmdEnd
  | cmdIdle
deriving DecidableEq, Repr

/-- The parameters of R8 that are not derived from others. -/
structure Params where
  /-- `W`: line width in bytes, the unit of every read. -/
  W : Nat
  /-- `CAP_LINES`: capacity of the ring in lines. -/
  capLines : Nat
  /-- `LOW_WATER_LINES`: low-water mark in lines. -/
  lowWaterLines : Nat
  /-- `H` (`IMAGE_HEIGHT`): source rows per frame. -/
  H : Nat
  /-- `N` (`UPSCALE`): physical scanlines per source row. -/
  N : Nat
  /-- `V_OFFSET`: scanline position of the first visible scanline. -/
  vOffset : Nat
  /-- `L` (`LINE_BUF_LEN`): length of the scanline pixel buffer in bytes. -/
  L : Nat
  /-- `HOFF`: offset of the image inside the scanline pixel buffer. -/
  hOff : Nat
  /-- `CMD_DATA`: byte value of the data-chunk marker. -/
  cmdData : Byte
  /-- `CMD_END`: byte value of the frame-end marker. -/
  cmdEnd : Byte
  /-- `CMD_REQ`: byte value of the request-data marker. -/
  cmdReq : Byte
  /-- `CMD_IDLE`: byte value of the idle command. -/
  cmdIdle : Byte
  /-- `CMD_SOF`: byte value of the start-of-frame marker. -/
  cmdSof : Byte
  /-- `OVERFLOW_POLICY`. -/
  overflowPolicy : OverflowPolicy
  /-- `REQ_DEDUP`: one request per crossing instead of one per check. -/
  reqDedup : Bool
  /-- `ACK_ENABLE`: whether a frame-end acknowledgement is sent. -/
  ackEnable : Bool
  /-- `ACK_CODE`. -/
  ackCode : AckCode
  /-- `CNT_BITS`: width of `avail`, `received`, `processed`, `frame_counter`. -/
  cntBits : Nat
  /-- `SCAN_BITS`: width of `scanline` and `last_row`. -/
  scanBits : Nat
deriving DecidableEq, Repr

/-- `C`: capacity of the ring in bytes, `CAP_LINES * W` (R8). -/
def Params.C (p : Params) : Nat := p.capLines * p.W

/-- `T`: low-water mark in bytes, `LOW_WATER_LINES * W` (R8, R172). -/
def Params.T (p : Params) : Nat := p.lowWaterLines * p.W

/-- `IMAGE_WIDTH = W` (R10). -/
def Params.imageWidth (p : Params) : Nat := p.W

/-- `FRAME_SIZE = IMAGE_WIDTH * H` (R8). No rule of the block reads it. -/
def Params.frameSize (p : Params) : Nat := p.imageWidth * p.H

/-- `2^CNT_BITS`, the modulus of the counters (R23 to R26). -/
def Params.cntMod (p : Params) : Nat := 2 ^ p.cntBits

/-- `2^SCAN_BITS`, the modulus of `scanline` and the bound of a row (R30, R99). -/
def Params.scanMod (p : Params) : Nat := 2 ^ p.scanBits

/-- The five command bytes of R93, in the table's order. -/
def Params.commands (p : Params) : List Byte := [p.cmdData, p.cmdEnd, p.cmdReq, p.cmdIdle, p.cmdSof]

/-- The byte `ACK_CODE` stands for (R94). -/
def Params.ackByte (p : Params) : Byte :=
  match p.ackCode with
  | .cmdEnd => p.cmdEnd
  | .cmdIdle => p.cmdIdle

/-- The constraints of R9. -/
def Params.wf (p : Params) : Bool :=
  decide (1 ≤ p.W) && decide (1 ≤ p.capLines) && decide (p.T ≤ p.C) && decide (1 ≤ p.H) && decide (1 ≤ p.N)
    && decide (p.vOffset + p.N * p.H ≤ p.scanMod) && decide (p.hOff + p.W ≤ p.L) && decide p.commands.Nodup
    && decide (p.C < p.cntMod) && decide (p.frameSize < p.cntMod)

/-- The configuration of one instance: parameters that meet R9. An ill-formed one cannot be built, so every
statement about a state holds for every assignment that R8 and R9 allow, and for no other. -/
structure Config extends Params where
  valid : toParams.wf = true
deriving DecidableEq, Repr

/-- The reference parameters, the column "Reference" of R8. -/
def Params.ref : Params where
  W := 160
  capLines := 30
  lowWaterLines := 15
  H := 120
  N := 4
  vOffset := 35
  L := 200
  hOff := 20
  cmdData := 0x01
  cmdEnd := 0x02
  cmdReq := 0x03
  cmdIdle := 0x04
  cmdSof := 0x05
  overflowPolicy := .drop
  reqDedup := false
  ackEnable := false
  ackCode := .cmdEnd
  cntBits := 32
  scanBits := 16

/-- The parameters of R11, the small configuration for hand-checkable vectors. -/
def Params.small : Params :=
  { Params.ref with W := 4, capLines := 2, lowWaterLines := 1, H := 3, N := 2, vOffset := 1, L := 8, hOff := 2 }

/-- `CFG_REF` (R8). -/
def Config.ref : Config := { toParams := Params.ref, valid := by decide }

/-- `CFG_SMALL` (R11). -/
def Config.small : Config := { toParams := Params.small, valid := by decide }

/-- The byte that a read of a `storage` index without a value gives (R48, R49, U12: any value): a free value, one
for each number of a consumed free byte. Nothing constrains it. DESIGN CHOICE, safe: notes/assumptions/3.md. -/
opaque Config.unwrittenByte : Nat → Byte

end Sys2Proof
end

