-- ==== Sys2Proof/Syntax.lean ====
section
/-! DEFINITION. The operation set (R2, R112): one constructor of `Instr` for each row of spec/opcode_table.json. And
what crosses the block's ports: the transactions of its input ports (R45, R97) and, with the bytes of its transmit
port, everything that has an encoding (R91, R92). -/

namespace Sys2Proof

/-- The operations. The first eight are received blocks by their meaning (R93, R91), the next two the transmitted
codes (R94), then the seven port operations (R97) and the four internal primitives (R98). -/
inductive Instr where
  /-- `CMD_DATA` received (R145). -/
  | cmdData
  /-- `CMD_END` received (R148). -/
  | cmdEnd
  /-- `CMD_REQ` received (R149). -/
  | cmdReq
  /-- `CMD_IDLE` received (R152). -/
  | cmdIdle
  /-- `CMD_SOF` received (R146). -/
  | cmdSof
  /-- `CMD_UNKNOWN`: a one-byte block whose byte is no command parameter (R150). -/
  | cmdUnknown (code : Byte)
  /-- `RX_EMPTY`: a block of length 0 (R142). -/
  | rxEmpty
  /-- `RX_PAYLOAD`: a block of two or more bytes (R151, R154). -/
  | rxPayload (data : List Byte)
  /-- `TX_REQ`: the request byte is sent (R94, R173). -/
  | txReq
  /-- `TX_ACK`: the frame-end acknowledgement (R94, R176). -/
  | txAck
  /-- `INIT` (R205). -/
  | init
  /-- `RX_BLOCK`: a block of any length, before it is classified (R141). -/
  | rxBlock (data : List Byte)
  /-- `LINE_TICK` (R189). -/
  | lineTick
  /-- `FRAME_TICK` (R191). -/
  | frameTick
  /-- `GET_LINE` (R186); `row` is `SCAN_BITS` wide. -/
  | getLine (row : Nat)
  /-- `FLOW_CHECK` (R173). -/
  | flowCheck
  /-- `GET_AVAILABLE_LINES` (R207). -/
  | getAvailableLines
  /-- `RB_WRITE` (R121); `len` is the length of the list. -/
  | rbWrite (data : List Byte)
  /-- `RB_READ_LINE` (R124). -/
  | rbReadLine
  /-- `RB_FLUSH` (R126). -/
  | rbFlush
  /-- `TX_EMIT` (R171). -/
  | txEmit (b : Byte)
deriving DecidableEq, Repr

/-- One transaction on an input port (R44, R45). A received block is its bytes in order; its length is the list's. -/
inductive Transaction where
  /-- port `init` -/
  | init
  /-- port `rx_block` -/
  | rxBlock (data : List Byte)
  /-- port `line_tick` -/
  | lineTick
  /-- port `frame_tick` -/
  | frameTick
  /-- port `get_line` -/
  | getLine (row : Nat)
  /-- port `poll_tick` -/
  | pollTick
  /-- port `avail_lines` -/
  | availLines
deriving DecidableEq, Repr

/-- What has an encoding: a transaction on an input port (R91, R97), or a byte sent on `tx_byte`, format `TXCMD`
(R92). -/
inductive Encoded where
  | port (t : Transaction)
  | tx (b : Byte)
deriving DecidableEq, Repr

/-- The clock domain column of the port table (R45, R70). -/
inductive Domain where
  | producer
  | consumer
  | either
  | both
deriving DecidableEq, Repr

/-- Which domain issues a transaction (R45, R70). -/
def Transaction.domain : Transaction → Domain
  | .init => .both
  | .rxBlock _ => .producer
  | .lineTick => .consumer
  | .frameTick => .consumer
  | .getLine _ => .consumer
  | .pollTick => .either
  | .availLines => .either

end Sys2Proof
end

