-- ==== Sys2Proof/WellFormed.lean ====
section
/-! DEFINITION. Which instructions and transactions are well formed: the operand ranges of R91, R93 and R99. -/

namespace Sys2Proof

/-- An unknown code is none of the five parameters (R93, R150); a payload block has two or more bytes (R91); a row
fits `SCAN_BITS` bits (R99 (d)). Every other operand is free. -/
def Instr.wellFormed (c : Config) : Instr → Bool
  | .cmdData => true
  | .cmdEnd => true
  | .cmdReq => true
  | .cmdIdle => true
  | .cmdSof => true
  | .cmdUnknown code => !c.commands.contains code
  | .rxEmpty => true
  | .rxPayload data => decide (2 ≤ data.length)
  | .txReq => true
  | .txAck => true
  | .init => true
  | .rxBlock _ => true
  | .lineTick => true
  | .frameTick => true
  | .getLine row => decide (row < c.scanMod)
  | .flowCheck => true
  | .getAvailableLines => true
  | .rbWrite _ => true
  | .rbReadLine => true
  | .rbFlush => true
  | .txEmit _ => true

/-- What the input ports can carry: a row on `get_line` has `SCAN_BITS` bits (R45). -/
def Transaction.wellFormed (c : Config) : Transaction → Bool
  | .init => true
  | .rxBlock _ => true
  | .lineTick => true
  | .frameTick => true
  | .getLine row => decide (row < c.scanMod)
  | .pollTick => true
  | .availLines => true

end Sys2Proof
end

