-- ==== Sys2Proof/Decode.lean ====
section
/-! DEFINITION. The decoder, total on every block of bytes and every transaction, and the encoder. The encodings are
those of R91 to R94, R97 and R98; the decode order is that of R100 and R141. -/

namespace Sys2Proof

/-- Why something that reaches the decoder is no operation. No received block is ever rejected (R105, R220). -/
inductive DecodeError where
  /-- a `get_line` row that does not fit the port's `SCAN_BITS` wires (R45) -/
  | rowTooWide (row : Nat)
  /-- a byte that the device never sends (R92, R94) -/
  | notATransmitCode (b : Byte)
deriving DecidableEq, Repr

/-- The command of a one-byte block (R100, R141): compared on all 8 bits with the five parameters (R93). -/
def decodeCommand (c : Config) (b : Byte) : Instr :=
  if b = c.cmdSof then .cmdSof
  else if b = c.cmdData then .cmdData
  else if b = c.cmdEnd then .cmdEnd
  else if b = c.cmdReq then .cmdReq
  else if b = c.cmdIdle then .cmdIdle
  else .cmdUnknown b

/-- The classification of a received block, by its length alone (R90, R91, R100). -/
def decodeBlock (c : Config) : List Byte → Instr
  | [] => .rxEmpty
  | [b] => decodeCommand c b
  | b₀ :: b₁ :: rest => .rxPayload (b₀ :: b₁ :: rest)

/-- The operation a transaction invokes, selected by its port (R97). -/
def decodeTransaction (c : Config) : Transaction → Except DecodeError Instr
  | .init => .ok .init
  | .rxBlock data => .ok (decodeBlock c data)
  | .lineTick => .ok .lineTick
  | .frameTick => .ok .frameTick
  | .getLine row => if row < c.scanMod then .ok (.getLine row) else .error (.rowTooWide row)
  | .pollTick => .ok .flowCheck
  | .availLines => .ok .getAvailableLines

/-- The code of a byte on `tx_byte`, as the host reads it (R92, R94). The device itself never decodes it. -/
def decodeTx (c : Config) (b : Byte) : Except DecodeError Instr :=
  if b = c.cmdReq then .ok .txReq
  else if b = c.ackByte then .ok .txAck
  else .error (.notATransmitCode b)

/-- The decoder. -/
def decode (c : Config) : Encoded → Except DecodeError Instr
  | .port t => decodeTransaction c t
  | .tx b => decodeTx c b

/-- The encoder. Internal primitives have no encoding and no port (R98). `RX_BLOCK` is encoded as the block it
carries, which decodes to what the block is classified as (R141). -/
def encode (c : Config) : Instr → Option Encoded
  | .cmdData => some (.port (.rxBlock [c.cmdData]))
  | .cmdEnd => some (.port (.rxBlock [c.cmdEnd]))
  | .cmdReq => some (.port (.rxBlock [c.cmdReq]))
  | .cmdIdle => some (.port (.rxBlock [c.cmdIdle]))
  | .cmdSof => some (.port (.rxBlock [c.cmdSof]))
  | .cmdUnknown code => some (.port (.rxBlock [code]))
  | .rxEmpty => some (.port (.rxBlock []))
  | .rxPayload data => some (.port (.rxBlock data))
  | .txReq => some (.tx c.cmdReq)
  | .txAck => some (.tx c.ackByte)
  | .init => some (.port .init)
  | .rxBlock data => some (.port (.rxBlock data))
  | .lineTick => some (.port .lineTick)
  | .frameTick => some (.port .frameTick)
  | .getLine row => some (.port (.getLine row))
  | .flowCheck => some (.port .pollTick)
  | .getAvailableLines => some (.port .availLines)
  | .rbWrite _ => none
  | .rbReadLine => none
  | .rbFlush => none
  | .txEmit _ => none

/-- The bytes of an instruction of `nbits` bits numbered as spec/opcode_table.json numbers them: bits 7..0 are the
first byte of the block, bits 15..8 the second. The block ends with the last byte, since its length is part of its
meaning (R46, R91). -/
def wordBytes (nbits w : Nat) : List Byte :=
  (List.range ((nbits + 7) / 8)).map fun i => BitVec.ofNat 8 (w >>> (8 * i))

/-- What the decoder reads from a received block with the given bits, under the reference parameters, whose byte
values the table's rows hold (R112). -/
def decodeTableWord (nbits w : Nat) : Option Instr :=
  (decodeTransaction Config.ref (.rxBlock (wordBytes nbits w))).toOption

end Sys2Proof
end

