-- ==== Sys2Proof/Machine/Memory.lean ====
section
/-! DEFINITION. The two private byte memories of the block (R60), as lists of cells in one canonical form. -/

namespace Sys2Proof.Machine

/-- The two address spaces (R35, R60). -/
inductive Space where
  /-- the ring, indices `0 .. C-1`, circular -/
  | storage
  /-- the scanline pixel buffer, indices `0 .. L-1`, linear -/
  | lineBuf
deriving DecidableEq, Repr

/-- The contents of both memories; a cell is an index and its byte. -/
structure Memory where
  storage : List Host.Cell
  lineBuf : List Host.Cell
deriving DecidableEq, Repr

/-- What an index that is not listed reads as: in `storage` no value (R48, R49), in `line_buf` the 0x00 of reset
(R48, R34). -/
def Space.unlisted : Space → Option Byte
  | .storage => none
  | .lineBuf => some 0x00

/-- The memory right after reset: `storage` without a value, `line_buf` all 0x00 (R48). -/
def Memory.empty : Memory := { storage := [], lineBuf := [] }

/-- The cells of one space. -/
def Memory.cells (m : Memory) : Space → List Host.Cell
  | .storage => m.storage
  | .lineBuf => m.lineBuf

/-- The memory with the cells of one space replaced. -/
def Memory.setCells (m : Memory) (cs : List Host.Cell) : Space → Memory
  | .storage => { m with storage := cs }
  | .lineBuf => { m with lineBuf := cs }

/-- The byte listed for an index. -/
def findCell (a : Nat) : List Host.Cell → Option Byte
  | [] => none
  | (x, b) :: rest => if x = a then some b else findCell a rest

/-- The list with the byte of an index put in its place, addresses rising. -/
def insertCell (a : Nat) (b : Byte) : List Host.Cell → List Host.Cell
  | [] => [(a, b)]
  | (x, y) :: rest =>
    if a < x then (a, b) :: (x, y) :: rest
    else if x = a then (a, b) :: rest
    else (x, y) :: insertCell a b rest

/-- The list without an entry for an index. -/
def eraseCell (a : Nat) : List Host.Cell → List Host.Cell
  | [] => []
  | (x, y) :: rest => if x = a then rest else (x, y) :: eraseCell a rest

/-- One byte read; `none` is "holds no value" (R49). -/
def Memory.read (m : Memory) (sp : Space) (a : Nat) : Option Byte :=
  match findCell a (m.cells sp) with
  | some b => some b
  | none => sp.unlisted

/-- One byte written. Writing what an unlisted index reads as removes the entry. -/
def Memory.write (m : Memory) (sp : Space) (a : Nat) (b : Byte) : Memory :=
  if sp.unlisted = some b then m.setCells (eraseCell a (m.cells sp)) sp
  else m.setCells (insertCell a b (m.cells sp)) sp

/-- The canonical form of one space: addresses strictly rising, no entry equal to what an unlisted one reads as. -/
abbrev canonicalCells (sp : Space) (cs : List Host.Cell) : Prop :=
  (cs.map Prod.fst).Pairwise (· < ·) ∧ ∀ e ∈ cs, sp.unlisted ≠ some e.2

/-- Both memories are in canonical form, so that equal memories are equal data. -/
abbrev Memory.wf (m : Memory) : Prop :=
  canonicalCells .storage m.storage ∧ canonicalCells .lineBuf m.lineBuf

end Sys2Proof.Machine
end

