-- ==== Sys2Proof/Machine/State.lean ====
section
/-! DEFINITION. The state record of R20, the observations of R15 and R31, and the model's own fields; the value of
each after reset (R48). -/

namespace Sys2Proof.Machine

/-- The position of the decoder in the frame protocol (R29). -/
inductive FrameState where
  /-- `ST_IDLE` -/
  | idle
  /-- `ST_RECEIVING` -/
  | receiving
  /-- `ST_COMPLETE` -/
  | complete
deriving DecidableEq, Repr

/-- What the operation last run gave on its result port (R31, R97, R98). -/
inductive Result where
  /-- the operation has no result -/
  | none
  /-- `GET_LINE`: this call copied a new line (R31 (b), R186) -/
  | bit (b : Bool)
  /-- `GET_AVAILABLE_LINES`: the number of whole lines (R207) -/
  | count (n : Nat)
  /-- `RB_WRITE`: the number of bytes accepted (R121) -/
  | accepted (n : Nat)
  /-- `RB_READ_LINE`: the line when the bit is 1, nothing when it is 0 (R31 (a), R124) -/
  | line (l : Option (List Byte))
deriving DecidableEq, Repr

/-- The whole state. The first twelve pieces are the record of R20 (`storage` and `line_buf` are the two spaces of
`mem`); `tx`, `out` and `result` are observations no rule reads (R15, R31); `cfg`, `inputs` and `freeCount` are the
model's own (notes/assumptions 2, 4, 3). -/
structure State where
  /-- the parameters of the instance, constant (R8, R20) -/
  cfg : Config
  /-- `storage` and `line_buf` (R34, R35) -/
  mem : Memory
  /-- `wc` (R21) -/
  wc : Nat
  /-- `rc` (R22) -/
  rc : Nat
  /-- `avail` (R23) -/
  avail : Nat
  /-- `st` (R29) -/
  st : FrameState
  /-- `received` (R24) -/
  received : Nat
  /-- `processed` (R25) -/
  processed : Nat
  /-- `frame_counter` (R26) -/
  frameCounter : Nat
  /-- `scanline` (R30) -/
  scanline : Nat
  /-- `last_row`; `none` is `NONE` (R36) -/
  lastRow : Option Nat
  /-- `req_outstanding` (R37) -/
  reqOutstanding : Bool
  /-- the bytes sent, oldest first (R15, R171) -/
  tx : List Byte
  /-- the buffers handed over, oldest first (R15, R192) -/
  out : List (List Byte)
  /-- the result of the operation last run (R31) -/
  result : Result
  /-- the transactions still to come, in the total order of R72 -/
  inputs : List Transaction
  /-- how many free bytes have been consumed -/
  freeCount : Nat
deriving DecidableEq, Repr

/-- No operation of this hardware raises an exception, traps, faults or halts (R220, R230), and no index outside a
memory can be presented (R60): there is no fault, and the type has no value. Nobody raises one; that is safe, since
the spec gives every operation an effect in every state (R16). -/
inductive Fault where
deriving DecidableEq, Repr

/-- Why a step has no meaning. -/
inductive Refusal where
  /-- Raised by `exec` for an operation without a meaning; no arm does so. Safe: the machine stops. -/
  | notModelled (mnemonic : String)
  /-- Raised by `step` for a pending transaction that its port cannot carry: a `get_line` row that does not fit the
  `SCAN_BITS` wires (R45, R99 (d)), which no environment can issue. Safe: the machine stops. -/
  | noOperation (e : DecodeError)
deriving DecidableEq, Repr

/-- The machine right after power-on reset (R48, R206, R250), in the reference configuration (R8), with nothing sent,
nothing handed over and no transaction pending (R251). -/
def State.reset : State where
  cfg := Config.ref
  mem := Memory.empty
  wc := 0
  rc := 0
  avail := 0
  st := .idle
  received := 0
  processed := 0
  frameCounter := 0
  scanline := 0
  lastRow := none
  reqOutstanding := false
  tx := []
  out := []
  result := .none
  inputs := []
  freeCount := 0

end Sys2Proof.Machine
end

