-- ==== Sys2Proof/Machine/Flags.lean ====
section
/-! DEFINITION. The derived status values (R32), none of them stored, and the clearing of the one stored flag,
`req_outstanding` (R37, R174). There is no condition-code register (R31). -/

namespace Sys2Proof.Machine

/-- `free = C - avail`. Where `avail` exceeds `C` the value has no meaning in the spec (R32); the natural-number
subtraction gives 0 there (DEDUCED: notes/assumptions/8.md). -/
def free (s : State) : Nat := s.cfg.C - s.avail

/-- `can_read = (avail >= W)` (R32). -/
def canRead (s : State) : Bool := decide (s.cfg.W ≤ s.avail)

/-- `low = (avail <= T)`, at or below (R32, R172). -/
def low (s : State) : Bool := decide (s.avail ≤ s.cfg.T)

/-- `lines = avail div W` (R32, R207). -/
def wholeLines (s : State) : Nat := s.avail / s.cfg.W

/-- `if avail > T then req_outstanding <- 0` (R121, R174). -/
def clearRequestAboveMark (s : State) : State := if low s then s else { s with reqOutstanding := false }

end Sys2Proof.Machine
end

