-- ==== Sys2Proof/Machine/Operands.lean ====
section
/-! DEFINITION. How operands are formed (R99): the effective index of a ring access and of a line-buffer access
(R127), and the visible window and source row of a scanline position (R189). -/

namespace Sys2Proof.Machine

/-- The effective index of byte `i` of a ring access that starts at cursor `a`: `(a + i) mod C` (R14, R127). -/
def ringIndex (c : Config) (a i : Nat) : Nat := (a + i) % c.C

/-- The index of byte `i` of a fetched line in the scanline pixel buffer: `HOFF + i`, no wrap (R127, R186). -/
def lineIndex (c : Config) (i : Nat) : Nat := c.hOff + i

/-- The cursor after an access of `n` bytes: post-modification modulo `C` (R127). -/
def advance (c : Config) (a n : Nat) : Nat := (a + n) % c.C

/-- A counter raised by `n`, modulo `2^CNT_BITS` (R23 to R26, R128). -/
def raise (c : Config) (x n : Nat) : Nat := (x + n) % c.cntMod

/-- The position after a line tick, modulo `2^SCAN_BITS` (R30). -/
def nextScanline (c : Config) (s : Nat) : Nat := (s + 1) % c.scanMod

/-- Whether a scanline position is visible (R189). -/
def visible (c : Config) (s : Nat) : Bool := decide (c.vOffset ≤ s) && decide (s < c.vOffset + c.N * c.H)

/-- The source row of a visible scanline position (R189, R99 (d)). -/
def sourceRow (c : Config) (s : Nat) : Nat := (s - c.vOffset) / c.N

end Sys2Proof.Machine
end

