-- ==== Sys2Proof/Machine/Ops.lean ====
section
/-! DEFINITION. The shared operations: memory primitives (R14), output primitives (R15), the internal primitives of
the ring and the transmitter (R120 to R126, R171 to R174), the effects of the commands (R141 to R154), the fetch of a
line (R186), reset (R205). Taking an exception and returning from one have no operation here: nothing raises one, no
state is saved and control goes nowhere (R220, R230, R231). -/

namespace Sys2Proof.Machine

/-! Memory and output primitives. -/

/-- Byte `i` of a read that starts at cursor `a`. An index without a value gives a free value (R49, U12). -/
def readByte (s : State) (a i : Nat) : Byte :=
  match s.mem.read .storage (ringIndex s.cfg a i) with
  | some b => b
  | none => Config.unwrittenByte (s.freeCount + i)

/-- `MemRead(a, n)` (R14). -/
def memRead (s : State) (a n : Nat) : List Byte := (List.range n).map (readByte s a)

/-- `MemWrite(a, n, v)` from byte number `i` on, `i` ascending, so that a later byte overwrites an earlier one
(R14). -/
def memWrite (c : Config) (a i : Nat) : List Byte → Memory → Memory
  | [], m => m
  | b :: bs, m => memWrite c a (i + 1) bs (m.write .storage (ringIndex c a i) b)

/-- `LineWrite(HOFF, n, v)` from byte number `i` on (R14, R186). -/
def lineWrite (c : Config) (i : Nat) : List Byte → Memory → Memory
  | [], m => m
  | b :: bs, m => lineWrite c (i + 1) bs (m.write .lineBuf (lineIndex c i) b)

/-- One byte of `line_buf`; every index holds a value (R20, R48). -/
def lineByte (m : Memory) (i : Nat) : Byte := (m.read .lineBuf i).getD 0x00

/-- The whole of `line_buf`, `L` bytes in index order (R34, R66). -/
def lineBuffer (s : State) : List Byte := (List.range s.cfg.L).map (lineByte s.mem)

/-- `TX_EMIT(b)`: append to `tx`; never blocks, never drops (R171). -/
def emit (b : Byte) (s : State) : State := { s with tx := s.tx ++ [b] }

/-- `Out(line_buf)`: hand over a copy of the buffer (R15, R192). -/
def handOver (s : State) : State := { s with out := s.out ++ [lineBuffer s] }

/-! The ring. -/

/-- How many bytes of a write are accepted: under `Drop` as many as fit, under `Unguarded` all (R121 to R123). -/
def acceptedCount (data : List Byte) (s : State) : Nat :=
  match s.cfg.overflowPolicy with
  | .drop => min data.length (free s)
  | .unguarded => data.length

/-- `RB_WRITE(data, len)` (R121 to R123); the number accepted is `acceptedCount`. -/
def ringWrite (data : List Byte) (s : State) : State :=
  clearRequestAboveMark
    { s with
      mem := memWrite s.cfg s.wc 0 (data.take (acceptedCount data s)) s.mem
      wc := advance s.cfg s.wc (acceptedCount data s)
      avail := raise s.cfg s.avail (acceptedCount data s) }

/-- `RB_READ_LINE()` (R124, R125): the line, when a whole one is there, and the state after. -/
def ringReadLine (s : State) : Option (List Byte) × State :=
  if canRead s then
    (some (memRead s s.rc s.cfg.W),
      { s with
        rc := advance s.cfg s.rc s.cfg.W
        avail := s.avail - s.cfg.W
        freeCount := s.freeCount + s.cfg.W })
  else (none, s)

/-- `RB_FLUSH()` (R126, R50). -/
def ringFlush (s : State) : State :=
  { s with wc := 0, rc := 0, avail := 0, received := 0, processed := 0, reqOutstanding := false }

/-! The transmitter. -/

/-- The emission of a request, with the flag it sets in the de-duplicating variant (R173, R174). -/
def sendRequest (s : State) : State :=
  if s.cfg.reqDedup then { emit s.cfg.cmdReq s with reqOutstanding := true } else emit s.cfg.cmdReq s

/-- The frame-end acknowledgement, when it is enabled (R176). -/
def sendAck (s : State) : State := if s.cfg.ackEnable then emit s.cfg.ackByte s else s

/-- `FLOW_CHECK()` (R173, R174); the level test comes before the test of the flag (R229). -/
def checkFlow (s : State) : State :=
  if low s then
    if s.cfg.reqDedup && s.reqOutstanding then s else sendRequest s
  else { s with reqOutstanding := false }

/-! The decoder's effects. -/

/-- The flush together with the write of `st`: one critical section (R262). -/
def flushTo (next : FrameState) (s : State) : State := { ringFlush s with st := next }

/-- A completed frame is counted (R26, R148). -/
def countFrame (s : State) : State := { s with frameCounter := raise s.cfg s.frameCounter 1 }

/-- `do_payload(data, len)` (R151): the write, and the accepted bytes counted. -/
def acceptPayload (data : List Byte) (s : State) : State :=
  { ringWrite data s with received := raise s.cfg s.received (acceptedCount data s) }

/-- `do_data()` (R145): outside `ST_RECEIVING` a new frame begins (R143). -/
def dataMarker (s : State) : State :=
  match s.st with
  | .idle => flushTo .receiving s
  | .receiving => s
  | .complete => flushTo .receiving s

/-- `do_sof()` (R146), in every state. -/
def startOfFrame (s : State) : State := flushTo .receiving s

/-- `do_end()` (R148): flush and `ST_COMPLETE` from every state; only a frame in reception is counted and
acknowledged. -/
def endOfFrame (s : State) : State :=
  match s.st with
  | .idle => flushTo .complete s
  | .receiving => sendAck (countFrame (flushTo .complete s))
  | .complete => flushTo .complete s

/-- A payload block: `do_payload` in `ST_RECEIVING` (R151), discarded whole in the other states (R154). -/
def payload (data : List Byte) (s : State) : State :=
  match s.st with
  | .idle => s
  | .receiving => acceptPayload data s
  | .complete => s

/-- A one-byte block (R141, the arm `len = 1`). -/
def receiveCommand (b : Byte) (s : State) : State :=
  if b = s.cfg.cmdSof then startOfFrame s
  else if b = s.cfg.cmdData then dataMarker s
  else if b = s.cfg.cmdEnd then endOfFrame s
  else s

/-- `RX_BLOCK(data, len)`: the dispatch of R141. -/
def receiveBlock (data : List Byte) (s : State) : State :=
  match data with
  | [] => s
  | [b] => receiveCommand b s
  | b₀ :: b₁ :: rest => payload (b₀ :: b₁ :: rest) s

/-! The raster line source. -/

/-- `GET_LINE(row)` (R186 to R188): the result bit and the state after. The repeat test comes before the underrun
test, and the attempt is spent before the ring is looked at (R229). -/
def fetchLine (row : Nat) (s : State) : Bool × State :=
  if s.lastRow = some row then (false, s)
  else
    match ringReadLine { s with lastRow := some row } with
    | (none, t) => (false, t)
    | (some line, t) =>
      (true, checkFlow { t with mem := lineWrite s.cfg 0 line t.mem, processed := raise s.cfg t.processed s.cfg.W })

/-- `LINE_TICK()` (R189). -/
def tickLine (s : State) : State :=
  let t := { s with scanline := nextScanline s.cfg s.scanline }
  if visible s.cfg s.scanline then handOver (fetchLine (sourceRow s.cfg s.scanline) t).2 else t

/-- `FRAME_TICK()` (R191). -/
def tickFrame (s : State) : State := { s with scanline := 0, lastRow := none }

/-! Reset. -/

/-- `INIT()` (R205): every field of R20 at its reset value; `storage` is without a value again; bytes already sent and
buffers already handed over are not recalled. -/
def initialise (s : State) : State :=
  { s with
    mem := Memory.empty
    wc := 0
    rc := 0
    avail := 0
    st := .idle
    received := 0
    processed := 0
    frameCounter := 0
    scanline := 0
    lastRow := none
    reqOutstanding := false }

/-- What the operation gives on its result port (R31). -/
def setResult (r : Result) (s : State) : State := { s with result := r }

/-- The end of an operation: always a next state (R16, R220). -/
def answer (r : Result) (s : State) : Host.Outcome State Fault Refusal := .next (setResult r s)

end Sys2Proof.Machine
end

