-- ==== Sys2Proof/Machine/Control.lean ====
section
/-! DEFINITION. `INIT` and the status query (R205 to R209). -/

namespace Sys2Proof.Machine

/-- `INIT` (R205). -/
def execInit (s : State) : Host.Outcome State Fault Refusal := answer .none (initialise s)

/-- `GET_AVAILABLE_LINES` (R207). -/
def execGetAvailableLines (s : State) : Host.Outcome State Fault Refusal := answer (.count (wholeLines s)) s

end Sys2Proof.Machine
end

