-- ==== Sys2Proof/Machine/Protocol.lean ====
section
/-! DEFINITION. The Protocol Decoder and Frame Manager: `RX_BLOCK` and every block it can be (R140 to R156). -/

namespace Sys2Proof.Machine

/-- `RX_BLOCK` (R141). -/
def execRxBlock (data : List Byte) (s : State) : Host.Outcome State Fault Refusal := answer .none (receiveBlock data s)

/-- `RX_EMPTY` (R142): no effect. -/
def execRxEmpty (s : State) : Host.Outcome State Fault Refusal := answer .none s

/-- `RX_PAYLOAD` (R151, R154). -/
def execRxPayload (data : List Byte) (s : State) : Host.Outcome State Fault Refusal := answer .none (payload data s)

/-- `CMD_DATA` (R145). -/
def execCmdData (s : State) : Host.Outcome State Fault Refusal := answer .none (dataMarker s)

/-- `CMD_SOF` (R146). -/
def execCmdSof (s : State) : Host.Outcome State Fault Refusal := answer .none (startOfFrame s)

/-- `CMD_END` (R148). -/
def execCmdEnd (s : State) : Host.Outcome State Fault Refusal := answer .none (endOfFrame s)

/-- `CMD_REQ` received (R149): no effect. -/
def execCmdReq (s : State) : Host.Outcome State Fault Refusal := answer .none s

/-- `CMD_IDLE` received (R152): no effect. -/
def execCmdIdle (s : State) : Host.Outcome State Fault Refusal := answer .none s

/-- `CMD_UNKNOWN` (R150): no effect, whatever the byte. -/
def execCmdUnknown (_code : Byte) (s : State) : Host.Outcome State Fault Refusal := answer .none s

end Sys2Proof.Machine
end

