-- ==== Sys2Proof/Machine/Raster.lean ====
section
/-! DEFINITION. The Raster Line Source (R185 to R195): `GET_LINE`, `LINE_TICK`, `FRAME_TICK`. -/

namespace Sys2Proof.Machine

/-- `GET_LINE` (R186 to R188). -/
def execGetLine (row : Nat) (s : State) : Host.Outcome State Fault Refusal :=
  answer (.bit (fetchLine row s).1) (fetchLine row s).2

/-- `LINE_TICK` (R189); the result of the fetch is not used. -/
def execLineTick (s : State) : Host.Outcome State Fault Refusal := answer .none (tickLine s)

/-- `FRAME_TICK` (R191). -/
def execFrameTick (s : State) : Host.Outcome State Fault Refusal := answer .none (tickFrame s)

end Sys2Proof.Machine
end

