-- ==== Sys2Proof/Machine/RingBuffer.lean ====
section
/-! DEFINITION. The internal primitives of the Ring Buffer as operations (R120). They have no port (R98): no
transaction decodes to one; the port operations run them through the same shared operations. -/

namespace Sys2Proof.Machine

/-- `RB_WRITE` (R121 to R123); its result is the number of bytes accepted. -/
def execRbWrite (data : List Byte) (s : State) : Host.Outcome State Fault Refusal :=
  answer (.accepted (acceptedCount data s)) (ringWrite data s)

/-- `RB_READ_LINE` (R124, R125); its result is the line, or nothing. -/
def execRbReadLine (s : State) : Host.Outcome State Fault Refusal :=
  answer (.line (ringReadLine s).1) (ringReadLine s).2

/-- `RB_FLUSH` (R126). -/
def execRbFlush (s : State) : Host.Outcome State Fault Refusal := answer .none (ringFlush s)

end Sys2Proof.Machine
end

