-- ==== Sys2Proof/Machine/Transmitter.lean ====
section
/-! DEFINITION. The Command Transmitter (R170 to R177): the primitive `TX_EMIT`, the two codes it sends, and the port
operation `FLOW_CHECK`. -/

namespace Sys2Proof.Machine

/-- `TX_EMIT` (R171). -/
def execTxEmit (b : Byte) (s : State) : Host.Outcome State Fault Refusal := answer .none (emit b s)

/-- `TX_REQ`: the emission inside `FLOW_CHECK` (R94, R173), with the flag it sets (R174). DEDUCED:
notes/assumptions/9.md. -/
def execTxReq (s : State) : Host.Outcome State Fault Refusal := answer .none (sendRequest s)

/-- `TX_ACK` (R176). -/
def execTxAck (s : State) : Host.Outcome State Fault Refusal := answer .none (sendAck s)

/-- `FLOW_CHECK` (R173, R174). -/
def execFlowCheck (s : State) : Host.Outcome State Fault Refusal := answer .none (checkFlow s)

end Sys2Proof.Machine
end

