-- ==== Sys2Proof/Machine/Dispatch.lean ====
section
/-! DEFINITION. One arm for each operation of spec/opcode_table.json. -/

namespace Sys2Proof.Machine

def exec (i : Instr) (s : State) : Host.Outcome State Fault Refusal :=
  match i with
  | .cmdData => Sys2Proof.Machine.execCmdData s
  | .cmdEnd => Sys2Proof.Machine.execCmdEnd s
  | .cmdReq => Sys2Proof.Machine.execCmdReq s
  | .cmdIdle => Sys2Proof.Machine.execCmdIdle s
  | .cmdSof => Sys2Proof.Machine.execCmdSof s
  | .cmdUnknown code => Sys2Proof.Machine.execCmdUnknown code s
  | .rxEmpty => Sys2Proof.Machine.execRxEmpty s
  | .rxPayload data => Sys2Proof.Machine.execRxPayload data s
  | .txReq => Sys2Proof.Machine.execTxReq s
  | .txAck => Sys2Proof.Machine.execTxAck s
  | .init => Sys2Proof.Machine.execInit s
  | .rxBlock data => Sys2Proof.Machine.execRxBlock data s
  | .lineTick => Sys2Proof.Machine.execLineTick s
  | .frameTick => Sys2Proof.Machine.execFrameTick s
  | .getLine row => Sys2Proof.Machine.execGetLine row s
  | .flowCheck => Sys2Proof.Machine.execFlowCheck s
  | .getAvailableLines => Sys2Proof.Machine.execGetAvailableLines s
  | .rbWrite data => Sys2Proof.Machine.execRbWrite data s
  | .rbReadLine => Sys2Proof.Machine.execRbReadLine s
  | .rbFlush => Sys2Proof.Machine.execRbFlush s
  | .txEmit b => Sys2Proof.Machine.execTxEmit b s

end Sys2Proof.Machine
end

