-- ==== Sys2Proof/Machine/Fetch.lean ====
section
/-! DEFINITION. Where a step takes its operation from: the oldest transaction the environment has issued (R72). The
order the arbiter gives to transactions that are ready at one instant (R228). -/

namespace Sys2Proof.Machine

/-- The state with the oldest pending transaction taken off. -/
def State.dequeue (s : State) : State := { s with inputs := s.inputs.tail }

/-- What the oldest pending transaction decodes to; `none` when the environment has issued none. -/
def fetch (s : State) : Option (Except DecodeError Instr) := s.inputs.head?.map (decodeTransaction s.cfg)

/-- The state with a transaction put before those already pending. -/
def State.present (s : State) (t : Transaction) : State := { s with inputs := t :: s.inputs }

/-- The rank of a transaction among those ready at one instant: frame tick before line tick, consumer before producer,
poll tick last (R228). R228 names the line tick, the frame tick, the received block and the poll tick only: the ranks of
`init`, `avail_lines` and `get_line` (after the frame tick, level with the line tick, before a received block; ties in
order of arrival) are a DESIGN CHOICE (notes/assumptions/11.md). -/
def arbiterRank : Transaction → Nat
  | .init => 0
  | .frameTick => 1
  | .lineTick => 2
  | .getLine _ => 2
  | .rxBlock _ => 3
  | .availLines => 4
  | .pollTick => 5

/-- A transaction put behind those of lower or equal rank. -/
def arbiterInsert (t : Transaction) : List Transaction → List Transaction
  | [] => [t]
  | u :: us => if arbiterRank t < arbiterRank u then t :: u :: us else u :: arbiterInsert t us

/-- The order in which the arbiter lets transactions that are ready at one instant take place (R228). Claims do not
rely on it: `State.inputs` may hold any order (R72). -/
def arbitrate (ready : List Transaction) : List Transaction := ready.foldl (fun ts t => arbiterInsert t ts) []

end Sys2Proof.Machine
end

