-- ==== Sys2Proof/Machine/Step.lean ====
section
/-! DEFINITION. One step: the oldest pending transaction is decoded and its operation takes place, whole (R16, R67,
R72). With none pending the block holds its state (R240, R251). -/

namespace Sys2Proof.Machine

def step (s : State) : Host.Outcome State Fault Refusal :=
  match fetch s with
  | none => .next s
  | some (.ok i) => exec i s.dequeue
  | some (.error e) => .refused (.noOperation e)

/-- The state in which the next step receives the block whose bits are `w` (notes/assumptions/4.md, 12.md). -/
def State.withFetchWord (s : State) (nbits w : Nat) : State := s.present (.rxBlock (wordBytes nbits w))

end Sys2Proof.Machine
end

