-- ==== Sys2Proof/Machine/Trace.lean ====
section
/-! DEFINITION. The pseudo-operations of the trace notation, each by its expansion (R110, R111), and the shape of a
well-formed frame on the wire (R107, R108). -/

namespace Sys2Proof.Machine

/-- `LT*k` (R111). -/
def lineTicks (k : Nat) : List Transaction := List.replicate k .lineTick

/-- `RASTER`: a frame tick and the line ticks up to the last visible scanline (R111). -/
def rasterFrame (c : Config) : List Transaction := .frameTick :: lineTicks (c.vOffset + c.N * c.H)

/-- The transactions that write `scanline` (R30): the two ticks and `INIT`. -/
def movesRaster : Transaction → Bool
  | .init => true
  | .rxBlock _ => false
  | .lineTick => true
  | .frameTick => true
  | .getLine _ => false
  | .pollTick => false
  | .availLines => false

/-- Bytes cut into consecutive blocks of `k`, the last one shorter but never of length 1: a remainder of one byte is
merged into the block before it (R111). The first argument bounds the number of blocks. -/
def cutBlocks : Nat → Nat → List Byte → List (List Byte)
  | 0, _, _ => []
  | _ + 1, _, [] => []
  | fuel + 1, k, b :: bs =>
    if (b :: bs).length ≤ k + 1 then [b :: bs]
    else (b :: bs).take k :: cutBlocks fuel k ((b :: bs).drop k)

/-- The blocks of `FRAME(b0 .. bm; k)`: the data marker, the bytes in blocks of `k`, the frame-end marker (R111). For
`k` of 0 or 1 the spec gives no expansion: notes/assumptions/13.md. -/
def frameBlocks (c : Config) (bytes : List Byte) (k : Nat) : List (List Byte) :=
  [c.cmdData] :: cutBlocks bytes.length k bytes ++ [[c.cmdEnd]]

/-- `FRAME(b0 .. bm; k)` as transactions (R111). -/
def frameTrace (c : Config) (bytes : List Byte) (k : Nat) : List Transaction :=
  (frameBlocks c bytes k).map .rxBlock

/-- A block that is payload in format (R91). -/
def isPayload (b : List Byte) : Bool := decide (2 ≤ b.length)

/-- The blocks between the first data marker and the frame-end marker of a well-formed frame: payload blocks whose
lengths sum to `FRAME_SIZE`, between any two of which the data marker may be repeated (R108). -/
def wellFormedBody (c : Config) (blocks : List (List Byte)) : Bool :=
  (blocks.head?.any isPayload) && (blocks.getLast?.any isPayload)
    && (blocks.all fun b => isPayload b || decide (b = [c.cmdData]))
    && decide ((blocks.filter isPayload).flatten.length = c.frameSize)

/-- A well-formed frame on the wire (R108): an optional start-of-frame marker, the data marker, the body, the
frame-end marker. -/
def wellFormedFrame (c : Config) (blocks : List (List Byte)) : Bool :=
  let frame := if blocks.head? = some [c.cmdSof] then blocks.tail else blocks
  decide (frame.head? = some [c.cmdData]) && decide (frame.tail.getLast? = some [c.cmdEnd])
    && wellFormedBody c frame.tail.dropLast

end Sys2Proof.Machine
end

