-- ==== Sys2Proof/Safety.lean ====
section
/-! DEFINITION. What claims are stated in: the laws between the fields (R39 to R43, R49), the named conditions of
R221, and the duties of the environment that a claim may need as premises (R255 to R260). Nothing in the machine
reads any of these. -/

namespace Sys2Proof.Machine

/-! The laws between the fields. -/

/-- R39: both cursors are indices of `storage`. -/
def State.CursorsInRange (s : State) : Prop := s.wc < s.cfg.C ∧ s.rc < s.cfg.C

/-- R41: the read cursor is at the start of a line. -/
def State.ReadAligned (s : State) : Prop := s.rc % s.cfg.W = 0

/-- R42: `avail = (received - processed) mod 2^CNT_BITS`. -/
def State.Accounting (s : State) : Prop :=
  (s.avail : Int) = ((s.received : Int) - (s.processed : Int)) % (s.cfg.cntMod : Int)

/-- R40: `avail` is the distance from the read cursor to the write cursor, and at most the capacity. -/
def State.FillLaw (s : State) : Prop := s.avail ≤ s.cfg.C ∧ (s.rc + s.avail) % s.cfg.C = s.wc

/-- R20, R23 to R26, R30, R36: every register is in the range of its width. -/
def State.RegistersInRange (s : State) : Prop :=
  s.avail < s.cfg.cntMod ∧ s.received < s.cfg.cntMod ∧ s.processed < s.cfg.cntMod ∧ s.frameCounter < s.cfg.cntMod ∧
    s.scanline < s.cfg.scanMod ∧ ∀ row ∈ s.lastRow, row < s.cfg.scanMod

/-- R37: without de-duplication the request flag stays 0. -/
def State.FlagLaw (s : State) : Prop := s.cfg.reqDedup = false → s.reqOutstanding = false

/-- R34, R192: outside the image window the scanline pixel buffer holds the zeros of reset. -/
def State.MarginsZero (s : State) : Prop :=
  ∀ i, i < s.cfg.hOff ∨ s.cfg.hOff + s.cfg.W ≤ i → s.mem.read .lineBuf i = some 0x00

/-- R60, R69: no index outside `storage` holds a value. -/
def State.StorageBounded (s : State) : Prop := ∀ a, s.cfg.C ≤ a → s.mem.read .storage a = none

/-- An index of `storage` that holds a value (R49). -/
def State.Written (s : State) (a : Nat) : Prop := (s.mem.read .storage a).isSome

/-- Every unread byte of the ring has been written (R49). -/
def State.UnreadWritten (s : State) : Prop := ∀ i < s.avail, s.Written (ringIndex s.cfg s.rc i)

/-- R49: either no overrun has happened since the flush, and every unread byte has been written; or every index of
`storage` has been written. -/
def State.WrittenLaw (s : State) : Prop :=
  (s.FillLaw ∧ s.UnreadWritten) ∨ ∀ a < s.cfg.C, s.Written a

/-- The unread bytes of the ring, oldest first: the contents the FIFO law of R43 speaks of. -/
def State.unread (s : State) : List (Option Byte) :=
  (List.range s.avail).map fun i => s.mem.read .storage (ringIndex s.cfg s.rc i)

/-- The fields of R20 at the values of the reset table (R48, R250). -/
def State.IsReset (s : State) : Prop :=
  s.wc = 0 ∧ s.rc = 0 ∧ s.avail = 0 ∧ s.st = .idle ∧ s.received = 0 ∧ s.processed = 0 ∧ s.frameCounter = 0 ∧
    (∀ i, s.mem.read .lineBuf i = some 0x00) ∧ s.scanline = 0 ∧ s.lastRow = none ∧ s.reqOutstanding = false ∧
    ∀ i, s.mem.read .storage i = none

/-- The machine right after power-on reset in an instance of any configuration (R48, R206); `State.reset` is that of
`CFG_REF` (notes/assumptions/2.md). -/
def State.powerOn (c : Config) : State := { State.reset with cfg := c }

/-- The number of bytes a write of `len` bytes accepts, in the words of R121: `min(len, C - avail)` under `Drop`, `len`
under `Unguarded`. Under `Drop` with `avail` above `C` the difference has no meaning (R32), and nothing is said. -/
def State.Accepts (s : State) (len n : Nat) : Prop :=
  (s.cfg.overflowPolicy = .drop ∧ s.avail ≤ s.cfg.C ∧ n = min len (s.cfg.C - s.avail)) ∨
    (s.cfg.overflowPolicy = .unguarded ∧ n = len)

/-- A buffer that holds the whole of `line_buf` in index order (R34, R192). -/
def State.IsLineBuffer (s : State) (buf : List Byte) : Prop :=
  buf.length = s.cfg.L ∧ ∀ i < s.cfg.L, buf[i]? = s.mem.read .lineBuf i

/-! What the next transaction does to the ring. -/

/-- The row whose fetch the next transaction asks for, if it asks for one (R186, R189). -/
def State.nextRow (s : State) : Option Nat :=
  match s.inputs.head? with
  | some (.getLine row) => some row
  | some .lineTick => if visible s.cfg s.scanline then some (sourceRow s.cfg s.scanline) else none
  | _ => none

/-- The next transaction consumes a line: its row is not the last one, and a whole line is there (R186). -/
def State.TakesLine (s : State) : Prop := ∃ row, s.nextRow = some row ∧ s.lastRow ≠ some row ∧ s.cfg.W ≤ s.avail

/-- The next transaction empties the ring (R126, R145, R146, R148, R205). -/
def State.EmptiesRing (s : State) : Prop :=
  s.inputs.head? = some .init ∨ s.inputs.head? = some (.rxBlock [s.cfg.cmdEnd]) ∨
    s.inputs.head? = some (.rxBlock [s.cfg.cmdSof]) ∨
    (s.inputs.head? = some (.rxBlock [s.cfg.cmdData]) ∧ s.st ≠ .receiving)

/-- The next transaction is a payload block in reception (R151). -/
def State.ReceivesPayload (s : State) (data : List Byte) : Prop :=
  s.inputs.head? = some (.rxBlock data) ∧ 2 ≤ data.length ∧ s.st = .receiving

/-! The named conditions (R221). `E_DESYNC` is not a condition of the state: the block cannot tell it (R224). -/

/-- `E_UNDERRUN` (R222): the fetch of a row is attempted with less than a line in the ring. -/
def underrun (row : Nat) (s : State) : Bool := decide (s.lastRow ≠ some row) && !canRead s

/-- `E_OVERRUN` (R223): a payload block in reception is longer than the free space. -/
def overrun (data : List Byte) (s : State) : Bool :=
  decide (2 ≤ data.length) && decide (s.st = .receiving) && decide (free s < data.length)

/-- Either the policy is `Drop`, or the next transaction is no overrun (R40, R223). A command, an empty block and a
payload outside `ST_RECEIVING` never is one. -/
def State.NoOverrunNext (s : State) : Prop :=
  s.cfg.overflowPolicy = .drop ∨ ∀ data, s.inputs.head? = some (.rxBlock data) → overrun data s = false

/-! Duties (R256 to R259): premises of claims, never checked by the block. -/

/-- R259: a payload block fits the free space. -/
def fitsFreeSpace (data : List Byte) (s : State) : Bool := decide (data.length ≤ free s)

/-- R256, R258: the blocks of one frame are those of the grammar of R108: no payload block of one byte, and exactly
`FRAME_SIZE` payload bytes. -/
def hostKeepsFraming (c : Config) (blocks : List (List Byte)) : Bool := wellFormedFrame c blocks

/-- Every pending transaction is one its port can carry. -/
def State.InputsWellFormed (s : State) : Prop := ∀ t ∈ s.inputs, t.wellFormed s.cfg = true

/-! Runs. -/

/-- After each of the first `k` steps from `s`, `avail` is at or below the mark, and none of these steps empties the
ring: no moment at which R174 clears the request flag lies in the run. -/
def StaysLow (k : Nat) (s : State) : Prop :=
  ∀ j u, Sys2Proof.core.run j s = .next u →
    (j < k → ¬u.EmptiesRing) ∧ (0 < j → j ≤ k → u.avail ≤ u.cfg.T)

end Sys2Proof.Machine
end

