-- ==== Sys2Proof/Certificates/Slice0/Obligations.lean ====
section
/-! DEFINITION. The statements for the provers. Each is about every state of every well-formed configuration (R8, R9),
reachable or not, unless a premise says otherwise. A whole next state is written as the state before with the fields
that change, so that it is the frame as well: every field not named is unchanged. -/

open Sys2Proof Sys2Proof.Machine

/-! ## Reset -/

/-- R250: power-on reset and `INIT` both give the reset table; `INIT` completes in every state. -/
def Obligations.PowerOnAndInitGiveTheResetTable : Prop :=
  State.reset.IsReset ∧ ∀ s : State, ∃ t, exec .init s = .next t ∧ t.IsReset

/-- R205, with the port: `INIT` sets every field of R20, keeps what was sent and handed over, and twice equals once. No
other operation leads to `ST_IDLE`, clears `frame_counter` (but by its wrap) or writes `line_buf` outside the image
window; the other fields are also cleared by a flush or a frame tick (R126, R191). The fields `inputs` and `freeCount`
are the model's own (notes/assumptions/4.md, 3.md); the last clause has the canonical form of the memory as its
premise. -/
def Obligations.InitAloneResetsAllAndRecallsNothing : Prop :=
  ∀ s : State,
    decodeTransaction s.cfg .init = .ok .init ∧
    exec .init s = .next { s with
      mem := Memory.empty, wc := 0, rc := 0, avail := 0, st := .idle, received := 0, processed := 0,
      frameCounter := 0, scanline := 0, lastRow := none, reqOutstanding := false, result := .none } ∧
    (∀ t, exec .init s = .next t → exec .init t = .next t) ∧
    ∀ i t, i ≠ .init → exec i s = .next t →
      (t.st = .idle → s.st = .idle) ∧
      (t.frameCounter = s.frameCounter ∨ t.frameCounter = (s.frameCounter + 1) % 2 ^ s.cfg.cntBits) ∧
      (s.mem.wf → ∀ a, a < s.cfg.hOff ∨ s.cfg.hOff + s.cfg.W ≤ a →
        t.mem.read .lineBuf a = s.mem.read .lineBuf a)

/-! ## Received blocks -/

/-- R145, with the encoding: the byte `CMD_DATA` alone is the command; outside `ST_RECEIVING` it flushes and starts
reception; in `ST_RECEIVING` it has no effect. -/
def Obligations.CmdDataStartsReceptionOutsideReceiving : Prop :=
  ∀ s : State,
    decodeBlock s.cfg [s.cfg.cmdData] = .cmdData ∧
    (s.st ≠ .receiving → exec .cmdData s = .next { s with
      wc := 0, rc := 0, avail := 0, received := 0, processed := 0, reqOutstanding := false, st := .receiving,
      result := .none }) ∧
    (s.st = .receiving → exec .cmdData s = .next { s with result := .none })

/-- R146, with the encoding: flush and `ST_RECEIVING` in every state, `frame_counter` untouched. -/
def Obligations.CmdSofFlushesAndReceivesInEveryState : Prop :=
  ∀ s : State,
    decodeBlock s.cfg [s.cfg.cmdSof] = .cmdSof ∧
    exec .cmdSof s = .next { s with
      wc := 0, rc := 0, avail := 0, received := 0, processed := 0, reqOutstanding := false, st := .receiving,
      result := .none }

/-- R148, with the encoding: flush and `ST_COMPLETE` from every state; from `ST_RECEIVING` the frame is counted and,
when enabled, acknowledged by the byte of `ACK_CODE` (R94). -/
def Obligations.CmdEndFlushesAndCountsAFrameInReception : Prop :=
  ∀ s : State,
    decodeBlock s.cfg [s.cfg.cmdEnd] = .cmdEnd ∧
    (s.cfg.ackCode = .cmdEnd → s.cfg.ackByte = s.cfg.cmdEnd) ∧
    (s.cfg.ackCode = .cmdIdle → s.cfg.ackByte = s.cfg.cmdIdle) ∧
    (s.st ≠ .receiving → exec .cmdEnd s = .next { s with
      wc := 0, rc := 0, avail := 0, received := 0, processed := 0, reqOutstanding := false, st := .complete,
      result := .none }) ∧
    (s.st = .receiving → exec .cmdEnd s = .next { s with
      wc := 0, rc := 0, avail := 0, received := 0, processed := 0, reqOutstanding := false, st := .complete,
      frameCounter := (s.frameCounter + 1) % 2 ^ s.cfg.cntBits,
      tx := if s.cfg.ackEnable then s.tx ++ [s.cfg.ackByte] else s.tx,
      result := .none })

/-- R142, R149, R150, R152, with the encodings: an empty block, a received `CMD_REQ` or `CMD_IDLE` and every unknown
byte are recognised as such and change no state, in every state. -/
def Obligations.EmptyForeignAndUnknownBlocksChangeNothing : Prop :=
  ∀ s : State,
    (decodeBlock s.cfg [] = .rxEmpty ∧ exec .rxEmpty s = .next { s with result := .none }) ∧
    (decodeBlock s.cfg [s.cfg.cmdReq] = .cmdReq ∧ exec .cmdReq s = .next { s with result := .none }) ∧
    (decodeBlock s.cfg [s.cfg.cmdIdle] = .cmdIdle ∧ exec .cmdIdle s = .next { s with result := .none }) ∧
    ∀ code, code ∉ s.cfg.commands →
      decodeBlock s.cfg [code] = .cmdUnknown code ∧ exec (.cmdUnknown code) s = .next { s with result := .none }

/-- R154, with the encoding: outside `ST_RECEIVING` a block of two or more bytes is discarded whole. -/
def Obligations.PayloadOutsideReceivingIsDiscarded : Prop :=
  ∀ (s : State) (data : List Byte), 2 ≤ data.length → s.st ≠ .receiving →
    decodeBlock s.cfg data = .rxPayload data ∧ exec (.rxPayload data) s = .next { s with result := .none }

/-- R151, with the encoding: in `ST_RECEIVING` a payload block is what `RB_WRITE` makes of it, with `received` raised
by the number of bytes accepted and `st` unchanged. -/
def Obligations.PayloadInReceivingIsWrittenAndCounted : Prop :=
  ∀ (s : State) (data : List Byte) (n : Nat), 2 ≤ data.length → s.st = .receiving → s.Accepts data.length n →
    decodeBlock s.cfg data = .rxPayload data ∧
    ∃ u, exec (.rbWrite data) s = .next u ∧ u.result = .accepted n ∧ u.st = .receiving ∧
      exec (.rxPayload data) s =
        .next { u with received := (s.received + n) % 2 ^ s.cfg.cntBits, result := .none }

/-- R141, with the port: `RX_BLOCK` completes on every block in every state, with the effect of the operation the block
is classified as, by its length alone when that is not 1. -/
def Obligations.RxBlockDispatchesOnTheClassifiedBlock : Prop :=
  ∀ (s : State) (data : List Byte),
    decodeTransaction s.cfg (.rxBlock data) = .ok (decodeBlock s.cfg data) ∧
    (∃ t, exec (.rxBlock data) s = .next t ∧ exec (decodeBlock s.cfg data) s = .next t) ∧
    (data.length = 0 → decodeBlock s.cfg data = .rxEmpty) ∧
    (∀ b, data = [b] → decodeBlock s.cfg data =
      if b = s.cfg.cmdSof then .cmdSof else if b = s.cfg.cmdData then .cmdData else if b = s.cfg.cmdEnd then .cmdEnd
      else if b = s.cfg.cmdReq then .cmdReq else if b = s.cfg.cmdIdle then .cmdIdle else .cmdUnknown b) ∧
    (2 ≤ data.length → decodeBlock s.cfg data = .rxPayload data)

/-- R107: where a host cuts its payload does not matter. Premises: both pieces are payload, and either the policy is
`Drop` with `avail` in its range or the counter does not wrap. -/
def Obligations.PayloadCutsDoNotMatter : Prop :=
  ∀ (s t : State) (a b : List Byte), 2 ≤ a.length → 2 ≤ b.length →
    ((s.cfg.overflowPolicy = .drop ∧ s.avail ≤ s.cfg.C) ∨ s.avail + (a ++ b).length < 2 ^ s.cfg.cntBits) →
    exec (.rxPayload a) s = .next t → exec (.rxPayload b) t = exec (.rxPayload (a ++ b)) s

/-! ## The ring -/

/-- R121 (with R14 and R127 for the bytes), internal, without an encoding: `RB_WRITE` accepts `n` bytes, byte `i` lands
at `(wc + i) mod C`, a later byte overwriting an earlier one; every other byte of both memories and every other field
is unchanged. -/
def Obligations.RbWriteStoresAtTheCursorAndCounts : Prop :=
  ∀ (s : State) (data : List Byte) (n : Nat), s.Accepts data.length n →
    encode s.cfg (.rbWrite data) = none ∧ ∃ m : Memory,
      exec (.rbWrite data) s = .next { s with
        mem := m
        wc := (s.wc + n) % s.cfg.C
        avail := (s.avail + n) % 2 ^ s.cfg.cntBits
        reqOutstanding := if s.cfg.T < (s.avail + n) % 2 ^ s.cfg.cntBits then false else s.reqOutstanding
        result := .accepted n } ∧
      (∀ i < n, n ≤ i + s.cfg.C → m.read .storage (ringIndex s.cfg s.wc i) = data[i]?) ∧
      (∀ a, (∀ i < n, ringIndex s.cfg s.wc i ≠ a) → m.read .storage a = s.mem.read .storage a) ∧
      ∀ a, m.read .lineBuf a = s.mem.read .lineBuf a

/-- The model's choice (notes/assumptions/8.md, DEDUCED): under `Drop` with `avail` above `C`, where R32 gives `C -
avail` no meaning and no run comes, a write and a payload in reception accept nothing. -/
def Obligations.DropAboveCapacityAcceptsNothing : Prop :=
  ∀ (s : State) (data : List Byte), s.cfg.overflowPolicy = .drop → s.cfg.C < s.avail →
    ∃ t, exec (.rbWrite data) s = .next t ∧ t.result = .accepted 0 ∧ t.mem = s.mem ∧
      t.avail = s.avail % 2 ^ s.cfg.cntBits ∧ t.wc = s.wc % s.cfg.C ∧
      (2 ≤ data.length → s.st = .receiving → exec (.rxPayload data) s =
        .next { t with received := s.received % 2 ^ s.cfg.cntBits, result := .none })

/-- R122: an overrun under `Drop` writes the bytes that fit, behind the unread ones, and loses the rest; the ring is
full, the cursors are equal, nothing else changes, and the fill law and the order of the bytes survive. On a full ring
nothing is written. The premises are the fill law and the range of the cursors (R39, R40). -/
def Obligations.DropOverrunFillsTheRing : Prop :=
  ∀ (s : State) (data : List Byte), s.cfg.overflowPolicy = .drop → s.FillLaw → s.CursorsInRange →
    s.cfg.C - s.avail < data.length →
    ∃ (t : State) (m : Memory), exec (.rbWrite data) s = .next t ∧
      t = { s with
        mem := m
        wc := s.rc
        avail := s.cfg.C
        reqOutstanding := if s.cfg.T < s.cfg.C then false else s.reqOutstanding
        result := .accepted (s.cfg.C - s.avail) } ∧
      t.FillLaw ∧ t.unread = s.unread ++ (data.take (s.cfg.C - s.avail)).map some ∧
      (s.avail = s.cfg.C → m = s.mem)

/-- R123 and 90_conflicts.md C6: an unguarded write longer than the ring, from index 0, leaves its last bytes at the
start of `storage` and `avail` above `C`. -/
def Obligations.UnguardedOverrunWrapsOverTheStart : Prop :=
  ∀ (s : State) (data : List Byte), s.cfg.overflowPolicy = .unguarded → s.wc = 0 →
    s.cfg.C < data.length → data.length ≤ 2 * s.cfg.C → s.avail + data.length < 2 ^ s.cfg.cntBits →
    ∃ t, exec (.rbWrite data) s = .next t ∧ t.wc = data.length % s.cfg.C ∧ t.avail = s.avail + data.length ∧
      (∀ i < data.length - s.cfg.C, t.mem.read .storage i = data[s.cfg.C + i]?) ∧
      ∀ i, data.length - s.cfg.C ≤ i → i < s.cfg.C → t.mem.read .storage i = data[i]?

/-- R124, internal, without an encoding: with less than a line nothing changes; with a line or more its `W` bytes are
those at `(rc + i) mod C`, the cursor and the counter move by `W`, and nothing else changes (`freeCount` is the model's
own: notes/assumptions/3.md). A byte that holds no value is open (R49): the line's byte is then any value, and nothing
is said of it. -/
def Obligations.RbReadLineReadsAWholeLineOrNothing : Prop :=
  ∀ s : State,
    encode s.cfg .rbReadLine = none ∧
    (s.avail < s.cfg.W → exec .rbReadLine s = .next { s with result := .line none }) ∧
    (s.cfg.W ≤ s.avail → ∃ bytes : List Byte,
      exec .rbReadLine s = .next { s with
        rc := (s.rc + s.cfg.W) % s.cfg.C
        avail := s.avail - s.cfg.W
        freeCount := s.freeCount + s.cfg.W
        result := .line (some bytes) } ∧
      bytes.length = s.cfg.W ∧
      ∀ i < s.cfg.W, ∀ b, s.mem.read .storage (ringIndex s.cfg s.rc i) = some b → bytes[i]? = some b)

/-- R126, internal, without an encoding: the flush zeroes the cursors, `avail`, the per-frame counters and the request
flag, and nothing else. -/
def Obligations.RbFlushZeroesRingAndFrameCounters : Prop :=
  ∀ s : State, encode s.cfg .rbFlush = none ∧ exec .rbFlush s = .next { s with
    wc := 0, rc := 0, avail := 0, received := 0, processed := 0, reqOutstanding := false, result := .none }

/-! ## The transmitter -/

/-- R171, internal, without an encoding: `TX_EMIT(b)` makes `tx` one byte longer, the new last byte `b`. -/
def Obligations.TxEmitAppendsOneByte : Prop :=
  ∀ (s : State) (b : Byte),
    encode s.cfg (.txEmit b) = none ∧ exec (.txEmit b) s = .next { s with tx := s.tx ++ [b], result := .none }

/-- The model's choice (notes/assumptions/9.md): `TX_REQ` is the emission inside `FLOW_CHECK`, flag included. -/
def Obligations.TxReqSendsTheRequestByte : Prop :=
  ∀ s : State, exec .txReq s = .next { s with
    tx := s.tx ++ [s.cfg.cmdReq], reqOutstanding := s.cfg.reqDedup || s.reqOutstanding, result := .none }

/-- R176: the acknowledgement byte is sent when `ACK_ENABLE`, and never otherwise; it is `CMD_END` or `CMD_IDLE`, as
`ACK_CODE` says (R94). -/
def Obligations.TxAckSendsTheAckByteWhenEnabled : Prop :=
  ∀ s : State,
    (s.cfg.ackEnable = true → exec .txAck s = .next { s with tx := s.tx ++ [s.cfg.ackByte], result := .none }) ∧
    (s.cfg.ackEnable = false → exec .txAck s = .next { s with result := .none }) ∧
    (s.cfg.ackCode = .cmdEnd → s.cfg.ackByte = s.cfg.cmdEnd) ∧
    (s.cfg.ackCode = .cmdIdle → s.cfg.ackByte = s.cfg.cmdIdle)

/-- R173, with the port: at or below the mark one request, unless de-duplication holds it back; above the mark the flag
is cleared. -/
def Obligations.FlowCheckRequestsAtOrBelowTheMark : Prop :=
  ∀ s : State,
    decodeTransaction s.cfg .pollTick = .ok .flowCheck ∧
    (s.avail ≤ s.cfg.T → s.cfg.reqDedup = false →
      exec .flowCheck s = .next { s with tx := s.tx ++ [s.cfg.cmdReq], result := .none }) ∧
    (s.avail ≤ s.cfg.T → s.cfg.reqDedup = true → s.reqOutstanding = false →
      exec .flowCheck s = .next { s with tx := s.tx ++ [s.cfg.cmdReq], reqOutstanding := true, result := .none }) ∧
    (s.avail ≤ s.cfg.T → s.cfg.reqDedup = true → s.reqOutstanding = true →
      exec .flowCheck s = .next { s with result := .none }) ∧
    (s.cfg.T < s.avail → exec .flowCheck s = .next { s with reqOutstanding := false, result := .none })

/-- R174: with de-duplication a request is emitted only with the flag clear, and only its emission sets the flag. The
flag is cleared by a payload, a poll or a consumed line that leaves `avail` above the mark, and by every step that
empties the ring, after which the next check emits one further request; and nothing else clears it. So a run that meets
no such moment emits at most one request, and none if the flag was set. -/
def Obligations.DedupAllowsOneRequestPerCrossing : Prop :=
  (∀ s t : State, s.cfg.reqDedup = true → step s = .next t →
    (t.tx = s.tx ++ [s.cfg.cmdReq] → s.reqOutstanding = false ∧ t.reqOutstanding = true) ∧
    (s.reqOutstanding = false → t.reqOutstanding = true → t.tx = s.tx ++ [s.cfg.cmdReq]) ∧
    ((∃ data, s.ReceivesPayload data) ∨ s.inputs.head? = some .pollTick ∨ s.TakesLine → s.cfg.T < t.avail →
      t.reqOutstanding = false) ∧
    (s.EmptiesRing → t.reqOutstanding = false ∧
      ∃ u, exec .flowCheck t = .next u ∧ u.tx = t.tx ++ [s.cfg.cmdReq]) ∧
    (s.reqOutstanding = true → t.reqOutstanding = false → s.cfg.T < t.avail ∨ s.EmptiesRing)) ∧
  ∀ (k : Nat) (s t : State), s.cfg.reqDedup = true → StaysLow k s → Sys2Proof.core.run k s = Host.Outcome.next t →
    t.tx = s.tx ∨ (t.tx = s.tx ++ [s.cfg.cmdReq] ∧ s.reqOutstanding = false ∧ t.reqOutstanding = true)

/-- R175: the check runs after each consumed line, with the lowered `avail`, and on each poll tick, and nowhere else: a
step emits a request exactly when one of the two happens, `avail` is at or below the mark after it, and de-duplication
does not hold the request back. -/
def Obligations.RequestsComeFromPollsAndConsumedLinesOnly : Prop :=
  ∀ s t : State, step s = .next t →
    (t.tx = s.tx ++ [s.cfg.cmdReq] ↔
      (s.inputs.head? = some .pollTick ∨ s.TakesLine) ∧ t.avail ≤ s.cfg.T ∧
        ¬(s.cfg.reqDedup = true ∧ s.reqOutstanding = true))

/-! ## The raster line source -/

/-- R186 with the order of effects of R187, and the port. A repeated row changes nothing. An underrun spends the row's
attempt and changes nothing else (R188, R222). Otherwise the oldest line is read, copied to the window and counted, and
the flow check sees the lowered `avail`; this clause has the canonical form of the memory as its premise. A byte that
holds no value is open (R49): nothing is said of its copy, and `freeCount`, which the fetch raises, is the model's own
counter for such bytes, a DESIGN CHOICE (notes/assumptions/3.md). -/
def Obligations.GetLineAttemptsOncePerRowAndFetchesTheOldestLine : Prop :=
  ∀ (s : State) (row : Nat),
    (row < 2 ^ s.cfg.scanBits → decodeTransaction s.cfg (.getLine row) = .ok (.getLine row)) ∧
    (s.lastRow = some row → exec (.getLine row) s = .next { s with result := .bit false }) ∧
    (s.lastRow ≠ some row → s.avail < s.cfg.W →
      exec (.getLine row) s = .next { s with lastRow := some row, result := .bit false }) ∧
    (s.mem.wf → s.lastRow ≠ some row → s.cfg.W ≤ s.avail → ∃ m : Memory,
      exec (.getLine row) s = .next { s with
        mem := m
        rc := (s.rc + s.cfg.W) % s.cfg.C
        avail := s.avail - s.cfg.W
        processed := (s.processed + s.cfg.W) % 2 ^ s.cfg.cntBits
        lastRow := some row
        tx := if s.avail - s.cfg.W ≤ s.cfg.T ∧ ¬(s.cfg.reqDedup = true ∧ s.reqOutstanding = true)
          then s.tx ++ [s.cfg.cmdReq] else s.tx
        reqOutstanding := if s.avail - s.cfg.W ≤ s.cfg.T then s.cfg.reqDedup || s.reqOutstanding else false
        freeCount := s.freeCount + s.cfg.W
        result := .bit true } ∧
      (∀ i < s.cfg.W, ∀ b, s.mem.read .storage (ringIndex s.cfg s.rc i) = some b →
        m.read .lineBuf (lineIndex s.cfg i) = some b) ∧
      (∀ a, (∀ i < s.cfg.W, lineIndex s.cfg i ≠ a) → m.read .lineBuf a = s.mem.read .lineBuf a) ∧
      ∀ a, m.read .storage a = s.mem.read .storage a)

/-- R194 (an inference of the spec): the row gates the attempt and selects nothing: for two rows that both differ from
the last one, the states after differ in `last_row` alone. -/
def Obligations.RowNumberSelectsNoBytes : Prop :=
  ∀ (s t u : State) (row row' : Nat), s.lastRow ≠ some row → s.lastRow ≠ some row' →
    exec (.getLine row) s = .next t → exec (.getLine row') s = .next u →
    t.lastRow = some row ∧ u.lastRow = some row' ∧ { t with lastRow := u.lastRow } = u

/-- R189 (with R192), with the port: on a blanking scanline only the position moves; on a visible one the row `(s -
V_OFFSET) div N` is fetched as by `GET_LINE` and the whole buffer is handed over. -/
def Obligations.LineTickFetchesAndHandsOverWhenVisible : Prop :=
  ∀ s : State,
    decodeTransaction s.cfg .lineTick = .ok .lineTick ∧
    ((s.scanline < s.cfg.vOffset ∨ s.cfg.vOffset + s.cfg.N * s.cfg.H ≤ s.scanline) →
      exec .lineTick s = .next { s with scanline := (s.scanline + 1) % 2 ^ s.cfg.scanBits, result := .none }) ∧
    (s.cfg.vOffset ≤ s.scanline → s.scanline < s.cfg.vOffset + s.cfg.N * s.cfg.H →
      ∃ u buf,
        exec (.getLine ((s.scanline - s.cfg.vOffset) / s.cfg.N))
          { s with scanline := (s.scanline + 1) % 2 ^ s.cfg.scanBits } = .next u ∧
        u.IsLineBuffer buf ∧
        exec .lineTick s = .next { u with out := s.out ++ [buf], result := .none })

/-- R190 (an inference of the spec): on the first physical scanline of a row an attempt is made; on the `N - 1` that
repeat it nothing is fetched and the buffer is handed over again. -/
def Obligations.RepeatScanlinesFetchNothing : Prop :=
  ∀ (s : State) (row k : Nat), row < s.cfg.H → k < s.cfg.N → s.scanline = s.cfg.vOffset + s.cfg.N * row + k →
    (s.lastRow = some row → ∃ buf, s.IsLineBuffer buf ∧
      exec .lineTick s = .next { s with
        scanline := (s.scanline + 1) % 2 ^ s.cfg.scanBits, out := s.out ++ [buf], result := .none }) ∧
    (s.lastRow ≠ some row → ∃ t, exec .lineTick s = .next t ∧ t.lastRow = some row ∧
      t.out.length = s.out.length + 1)

/-- R191, with the port: the frame tick restarts the position, forgets the last row, and does nothing else. -/
def Obligations.FrameTickRestartsTheRaster : Prop :=
  ∀ s : State, decodeTransaction s.cfg .frameTick = .ok .frameTick ∧
    exec .frameTick s = .next { s with scanline := 0, lastRow := none, result := .none }

/-- R192: a raster frame, a frame tick and the line ticks up to the last visible scanline, hands over `N * H` buffers,
whatever other transactions that leave `scanline` alone come before, between and after its ticks (R72). -/
def Obligations.RasterFrameHandsOverEveryScanline : Prop :=
  ∀ s : State, s.InputsWellFormed → s.inputs.filter movesRaster = rasterFrame s.cfg →
    ∃ t, Sys2Proof.core.run s.inputs.length s = Host.Outcome.next t ∧ t.inputs = [] ∧
      t.out.length = s.out.length + s.cfg.N * s.cfg.H

/-! ## Queries -/

/-- R207, with the port: the query gives the whole lines in the ring, rounded down, and changes nothing. -/
def Obligations.AvailableLinesIsTheFloor : Prop :=
  ∀ s : State, decodeTransaction s.cfg .availLines = .ok .getAvailableLines ∧
    ∃ n, exec .getAvailableLines s = .next { s with result := .count n } ∧
    n = s.avail / s.cfg.W ∧ n * s.cfg.W ≤ s.avail ∧ s.avail < (n + 1) * s.cfg.W ∧
    (s.avail = s.cfg.C → n = s.cfg.capLines)

/-! ## Encoding and steps -/

/-- A step runs the decoded operation on the state without the transaction; with none pending it changes nothing (R72,
R251). The model's choices: that the transactions stand in a queue in the state (notes/assumptions/4.md), and that a
row too wide for its port, which no environment can issue, is refused (notes/assumptions/7.md). -/
def Obligations.StepRunsTheDecodedOperation : Prop :=
  ∀ s : State,
    (s.inputs = [] → step s = .next s) ∧
    ∀ t rest, s.inputs = t :: rest →
      (∀ i, decodeTransaction s.cfg t = .ok i → step s = exec i { s with inputs := rest }) ∧
      (∀ row, t = .getLine row → 2 ^ s.cfg.scanBits ≤ row → step s = .refused (.noOperation (.rowTooWide row)))

/-- A few blocks of R93 and R91. That a word stands for the block of its bytes, lowest first, and the word of no bits
for the empty block, is DEDUCED (notes/assumptions/12.md); the byte values are those of the reference configuration, a
DESIGN CHOICE of the model (notes/assumptions/2.md). -/
def Obligations.SampleBlocksDecodeAsTheTableSays : Prop :=
  decodeTableWord 8 0x01 = some .cmdData ∧ decodeTableWord 8 0x02 = some .cmdEnd ∧
    decodeTableWord 8 0x03 = some .cmdReq ∧ decodeTableWord 8 0x04 = some .cmdIdle ∧
    decodeTableWord 8 0x05 = some .cmdSof ∧ decodeTableWord 8 0x77 = some (.cmdUnknown 0x77) ∧
    decodeTableWord 0 0 = some .rxEmpty ∧ decodeTableWord 16 0x0201 = some (.rxPayload [0x01, 0x02])

/-- Decode and encode agree, for every configuration and every operation that has an encoding (R91 to R94, R97); the
block of an `RX_BLOCK` decodes to what it is classified as (R141). -/
def Obligations.DecodeOfEncodeIsTheOperation : Prop :=
  ∀ (c : Config) (i : Instr) (e : Encoded), i.wellFormed c = true → encode c i = some e →
    decode c e = .ok i ∨ ∃ data, i = .rxBlock data ∧ decode c e = .ok (decodeBlock c data)

/-- Each encoding has one meaning, which is well formed and is encoded as it (R93, R94, R97); only the internal
primitives have no encoding (R98). -/
def Obligations.EncodeOfDecodeIsTheEncoding : Prop :=
  (∀ (c : Config) (e : Encoded) (i : Instr), decode c e = .ok i → encode c i = some e ∧ i.wellFormed c = true) ∧
    ∀ (c : Config) (i : Instr), encode c i = none ↔
      (∃ data, i = .rbWrite data) ∨ i = .rbReadLine ∨ i = .rbFlush ∨ ∃ b, i = .txEmit b

/-- R16: every operation is total, in every state and for every argument; and a step with transactions its ports can
carry answers a next state. -/
def Obligations.EveryOperationCompletes : Prop :=
  (∀ (i : Instr) (s : State), ∃ t, exec i s = .next t) ∧
    ∀ s : State, s.InputsWellFormed → ∃ t, step s = .next t ∧ t.InputsWellFormed

/-- R110, R111: `FRAME` over two or more bytes in blocks of `k`, two or more, is the data marker, blocks that carry
exactly the bytes, and the frame-end marker; every block but the last has `k` bytes, and the last at least 2 and at
most `k + 1`. Over a whole frame it is a well-formed frame on the wire (R108, an inference of the spec). -/
def Obligations.FrameExpansionIsAWellFormedFrame : Prop :=
  ∀ (c : Config) (bytes : List Byte) (k : Nat), 2 ≤ k → 2 ≤ bytes.length →
    ∃ blocks : List (List Byte),
      frameTrace c bytes k = .rxBlock [c.cmdData] :: blocks.map .rxBlock ++ [.rxBlock [c.cmdEnd]] ∧
      blocks.flatten = bytes ∧
      (∀ b ∈ blocks.dropLast, b.length = k) ∧
      (∀ b, blocks.getLast? = some b → 2 ≤ b.length ∧ b.length ≤ k + 1) ∧
      (bytes.length = c.frameSize → wellFormedFrame c ([c.cmdData] :: blocks ++ [[c.cmdEnd]]) = true)

/-! ## Invariants: each holds at reset and every step keeps it -/

/-- Every invariant below holds right after reset, in every configuration; `State.reset` is the one of `CFG_REF`. -/
def Obligations.ResetMeetsEveryLaw : Prop :=
  State.reset = State.powerOn Config.ref ∧
  ∀ c : Config, let s := State.powerOn c
    s.mem.wf ∧ s.CursorsInRange ∧ s.ReadAligned ∧ s.RegistersInRange ∧ s.FillLaw ∧ s.UnreadWritten ∧ s.Accounting ∧
      s.FlagLaw ∧ s.MarginsZero ∧ s.StorageBounded ∧ s.WrittenLaw ∧ s.InputsWellFormed

/-- The configuration never changes (R33: fixed for the life of an instance). -/
def Obligations.ConfigurationNeverChanges : Prop :=
  (∀ (i : Instr) (s t : State), exec i s = .next t → t.cfg = s.cfg) ∧
    ∀ s t : State, step s = .next t → t.cfg = s.cfg

/-- The memory keeps its canonical form, the margins of the scanline buffer keep the zeros of reset (R34, R192), and no
index outside `storage` is written (R60). -/
def Obligations.StepKeepsMemoryCanonicalAndMarginsZero : Prop :=
  ∀ s t : State, s.mem.wf ∧ s.MarginsZero ∧ s.StorageBounded → step s = .next t →
    t.mem.wf ∧ t.MarginsZero ∧ t.StorageBounded

/-- R39, R41 (inferences of the spec) and the ranges of R20: cursors in range, the read cursor at a line, every
register within its width. -/
def Obligations.StepKeepsRegistersInRangeAndReadAligned : Prop :=
  ∀ s t : State, s.CursorsInRange ∧ s.ReadAligned ∧ s.RegistersInRange → step s = .next t →
    t.CursorsInRange ∧ t.ReadAligned ∧ t.RegistersInRange

/-- R40 (an inference of the spec): the fill law is kept under `Drop` by every step, and under `Unguarded` by every
step without an overrun. -/
def Obligations.StepKeepsTheFillLaw : Prop :=
  ∀ s t : State, s.FillLaw → s.NoOverrunNext → step s = .next t → t.FillLaw

/-- R42 (an inference of the spec): the accounting law, under both policies. -/
def Obligations.StepKeepsTheAccountingLaw : Prop :=
  ∀ s t : State, s.Accounting → step s = .next t → t.Accounting

/-- R37: without de-duplication the request flag stays 0. -/
def Obligations.StepKeepsTheRequestFlagLaw : Prop :=
  ∀ s t : State, s.FlagLaw → step s = .next t → t.FlagLaw

/-- R49 (an inference of the spec): the written law, under both policies, an overrun included; and in a state that
meets it every byte a line read takes has been written, so no operation's outcome depends on a free value. -/
def Obligations.NoNeverWrittenByteIsRead : Prop :=
  (∀ s t : State, s.WrittenLaw → step s = .next t → t.WrittenLaw) ∧
    ∀ s : State, s.WrittenLaw → s.cfg.W ≤ s.avail → ∀ i < s.cfg.W, s.Written (ringIndex s.cfg s.rc i)

/-- R43, R76 (inferences of the spec): the ring is a first-in first-out queue. A payload block in reception appends its
accepted bytes, a line consumed removes exactly the oldest `W` bytes, which then stand in the image window, a flush
empties it, and every other step leaves the unread bytes as they were. -/
def Obligations.RingIsAFifo : Prop :=
  ∀ s t : State, s.mem.wf → s.FillLaw → s.UnreadWritten → s.NoOverrunNext → step s = .next t →
    (∀ data n, s.ReceivesPayload data → s.Accepts data.length n →
      t.unread = s.unread ++ (data.take n).map some) ∧
    (s.TakesLine → t.unread = s.unread.drop s.cfg.W ∧
      (List.range s.cfg.W).map (fun i => t.mem.read .lineBuf (lineIndex s.cfg i)) = s.unread.take s.cfg.W) ∧
    (s.EmptiesRing → t.unread = []) ∧
    ((∀ data, ¬s.ReceivesPayload data) → ¬s.TakesLine → ¬s.EmptiesRing → t.unread = s.unread)

/-! ## Rules about the whole block -/

/-- R61, R171, R192: `tx` and `out` only grow, by at most one item a step; a byte sent is a request or the
acknowledgement, a buffer handed over has `L` bytes. -/
def Obligations.StreamsOnlyGrowByOneItem : Prop :=
  ∀ s t : State, step s = .next t →
    (t.tx = s.tx ∨ t.tx = s.tx ++ [s.cfg.cmdReq] ∨ (s.cfg.ackEnable = true ∧ t.tx = s.tx ++ [s.cfg.ackByte])) ∧
    (t.out = s.out ∨ ∃ buf, t.out = s.out ++ [buf] ∧ t.IsLineBuffer buf)

/-- R26: `frame_counter` moves in two steps only: `INIT` clears it, and a `CMD_END` in `ST_RECEIVING` raises it; a
flush leaves it. No rule reads it: with another value of it every operation has the same effect on every other field.
-/
def Obligations.FrameCounterCountsCompletedFrames : Prop :=
  (∀ s t : State, step s = .next t →
    t.frameCounter =
      if s.inputs.head? = some .init then 0
      else if s.inputs.head? = some (.rxBlock [s.cfg.cmdEnd]) ∧ s.st = .receiving
        then (s.frameCounter + 1) % 2 ^ s.cfg.cntBits
      else s.frameCounter) ∧
  (∀ s t : State, exec .rbFlush s = .next t → t.frameCounter = s.frameCounter) ∧
  ∀ (i : Instr) (s t : State) (n : Nat), exec i s = .next t →
    ∃ k, exec i { s with frameCounter := n } = .next { t with frameCounter := k }

/-- R153, R29, R144: the transition table of `st`; only `INIT` leads to `ST_IDLE`. -/
def Obligations.StFollowsTheTransitionTable : Prop :=
  ∀ s t : State, step s = .next t →
    t.st =
      if s.inputs.head? = some .init then .idle
      else if s.inputs.head? = some (.rxBlock [s.cfg.cmdData]) ∨ s.inputs.head? = some (.rxBlock [s.cfg.cmdSof])
        then .receiving
      else if s.inputs.head? = some (.rxBlock [s.cfg.cmdEnd]) then .complete
      else s.st

/-- R144 (an inference of the spec): `ST_IDLE` and `ST_COMPLETE` differ in name and history only: no operation tells
them apart, but that one that leaves `st` alone leaves it as it was. -/
def Obligations.IdleAndCompleteBehaveAlike : Prop :=
  ∀ (i : Instr) (s t u : State),
    exec i { s with st := .idle } = .next t → exec i { s with st := .complete } = .next u →
    { t with st := u.st } = u ∧ (t.st = u.st ∨ (t.st = .idle ∧ u.st = .complete))

/-- R185, R74: an operation of the consumer never writes `storage`, `wc`, `st`, `received` or `frame_counter`, and
moves `avail` only down. -/
def Obligations.ConsumerLeavesProducerStateAlone : Prop :=
  ∀ (s t : State) (tr : Transaction) (rest : List Transaction), s.inputs = tr :: rest → tr.domain = .consumer →
    step s = .next t →
    (∀ a, t.mem.read .storage a = s.mem.read .storage a) ∧ t.wc = s.wc ∧ t.st = s.st ∧ t.received = s.received ∧
      t.frameCounter = s.frameCounter ∧ t.avail ≤ s.avail

/-- R156 (with R38): the decoder never writes `line_buf`, `scanline` or `last_row` and hands nothing over; the only
byte it can emit is the acknowledgement of a completed frame; and it reads none of the three: with other values of them
a block has the same effect. -/
def Obligations.ProducerLeavesRasterStateAlone : Prop :=
  ∀ (s t : State) (data : List Byte), exec (.rxBlock data) s = .next t →
    (∀ a, t.mem.read .lineBuf a = s.mem.read .lineBuf a) ∧ t.scanline = s.scanline ∧ t.lastRow = s.lastRow ∧
      t.out = s.out ∧
      (t.tx = s.tx ∨ (data = [s.cfg.cmdEnd] ∧ s.st = .receiving ∧ s.cfg.ackEnable = true ∧
        t.tx = s.tx ++ [s.cfg.ackByte])) ∧
      ∀ cells scan row,
        exec (.rxBlock data)
            { s with mem := { s.mem with lineBuf := cells }, scanline := scan, lastRow := row } =
          .next { t with mem := { t.mem with lineBuf := cells }, scanline := scan, lastRow := row }

/-- R264 (an inference of the spec): a byte the device sends that comes back as a received block sends nothing again in
`ST_COMPLETE`, and a request is ignored in every state. -/
def Obligations.LoopedBackBytesSendNothingAgain : Prop :=
  ∀ s : State,
    exec (.rxBlock [s.cfg.cmdReq]) s = .next { s with result := .none } ∧
    (s.st = .complete → ∃ t, exec (.rxBlock [s.cfg.ackByte]) s = .next t ∧ t.tx = s.tx ∧ t.st = .complete ∧
      t.frameCounter = s.frameCounter)
end

