-- ==== Sys2Proof/Laws/Config.lean ====
section
/-! SUPPORT. What the constraints of R9, carried by every configuration, give a proof. -/

namespace Sys2Proof

theorem Config.constraints (c : Config) :
    1 ≤ c.W ∧ 1 ≤ c.capLines ∧ c.T ≤ c.C ∧ 1 ≤ c.H ∧ 1 ≤ c.N ∧ c.vOffset + c.N * c.H ≤ c.scanMod ∧
      c.hOff + c.W ≤ c.L ∧ c.commands.Nodup ∧ c.C < c.cntMod ∧ c.frameSize < c.cntMod := by
  have h := c.valid
  simp only [Params.wf, Bool.and_eq_true, decide_eq_true_eq] at h
  obtain ⟨⟨⟨⟨⟨⟨⟨⟨⟨h1, h2⟩, h3⟩, h4⟩, h5⟩, h6⟩, h7⟩, h8⟩, h9⟩, h10⟩ := h
  exact ⟨h1, h2, h3, h4, h5, h6, h7, h8, h9, h10⟩

theorem Config.W_pos (c : Config) : 0 < c.W := c.constraints.1

theorem Config.capLines_pos (c : Config) : 0 < c.capLines := c.constraints.2.1

theorem Config.C_eq (c : Config) : c.C = c.capLines * c.W := rfl

theorem Config.T_eq (c : Config) : c.T = c.lowWaterLines * c.W := rfl

theorem Config.C_pos (c : Config) : 0 < c.C := Nat.mul_pos c.capLines_pos c.W_pos

theorem Config.T_le_C (c : Config) : c.T ≤ c.C := c.constraints.2.2.1

theorem Config.H_pos (c : Config) : 0 < c.H := c.constraints.2.2.2.1

theorem Config.N_pos (c : Config) : 0 < c.N := c.constraints.2.2.2.2.1

theorem Config.window_le_scanMod (c : Config) : c.vOffset + c.N * c.H ≤ c.scanMod := c.constraints.2.2.2.2.2.1

theorem Config.window_le_L (c : Config) : c.hOff + c.W ≤ c.L := c.constraints.2.2.2.2.2.2.1

theorem Config.commands_nodup (c : Config) : c.commands.Nodup := c.constraints.2.2.2.2.2.2.2.1

theorem Config.C_lt_cntMod (c : Config) : c.C < c.cntMod := c.constraints.2.2.2.2.2.2.2.2.1

theorem Config.cntMod_pos (c : Config) : 0 < c.cntMod := Nat.two_pow_pos _

theorem Config.scanMod_pos (c : Config) : 0 < c.scanMod := Nat.two_pow_pos _

theorem Config.W_dvd_C (c : Config) : c.W ∣ c.C := Dvd.intro_left _ rfl

theorem Config.W_le_C (c : Config) : c.W ≤ c.C := Nat.le_of_dvd c.C_pos c.W_dvd_C

/-- The five command bytes are pairwise distinct (R9). -/
theorem Config.commands_distinct (c : Config) :
    c.cmdData ≠ c.cmdEnd ∧ c.cmdData ≠ c.cmdReq ∧ c.cmdData ≠ c.cmdIdle ∧ c.cmdData ≠ c.cmdSof ∧
      c.cmdEnd ≠ c.cmdReq ∧ c.cmdEnd ≠ c.cmdIdle ∧ c.cmdEnd ≠ c.cmdSof ∧
      c.cmdReq ≠ c.cmdIdle ∧ c.cmdReq ≠ c.cmdSof ∧ c.cmdIdle ≠ c.cmdSof := by
  have h := c.commands_nodup
  simp only [Params.commands, List.nodup_cons, List.mem_cons, List.not_mem_nil, not_or, or_false] at h
  tauto

/-- The acknowledgement is never the request byte. -/
theorem Config.ackByte_ne_cmdReq (c : Config) : c.ackByte ≠ c.cmdReq := by
  have h := c.commands_distinct
  unfold Params.ackByte
  split
  · exact h.2.2.2.2.1
  · exact Ne.symm h.2.2.2.2.2.2.2.1

end Sys2Proof
end

