-- ==== Sys2Proof/Laws/Memory.lean ====
section
/-! SUPPORT. The laws of the two memories: a read after a write, the canonical form kept by every operation, equal
reads mean equal memories. -/

namespace Sys2Proof.Machine

@[simp] theorem Memory.cells_setCells_same (m : Memory) (cs : List Host.Cell) (sp : Space) :
    (m.setCells cs sp).cells sp = cs := by cases sp <;> rfl

theorem Memory.cells_setCells_other (m : Memory) (cs : List Host.Cell) {sp sp' : Space} (h : sp' ≠ sp) :
    (m.setCells cs sp).cells sp' = m.cells sp' := by cases sp <;> cases sp' <;> first | rfl | exact absurd rfl h

theorem findCell_insertCell (a a' : Nat) (b : Byte) (cs : List Host.Cell) :
    findCell a' (insertCell a b cs) = if a = a' then some b else findCell a' cs := by
  induction cs with
  | nil => simp [insertCell, findCell]
  | cons e rest ih =>
    obtain ⟨x, y⟩ := e
    simp only [insertCell]
    split
    · simp [findCell]
    · split
      · rename_i h; subst h; simp only [findCell]; split <;> rfl
      · rename_i h; simp only [findCell, ih]; split <;> split <;> first | rfl | omega

/-- In a rising list an address below the first one is not listed. -/
theorem findCell_eq_none_of_lt (a : Nat) (cs : List Host.Cell) (h : ∀ e ∈ cs, a < e.1) : findCell a cs = none := by
  induction cs with
  | nil => rfl
  | cons e rest ih =>
    obtain ⟨x, y⟩ := e
    have hx := h (x, y) (by simp)
    simp only [findCell]
    rw [if_neg (by simp at hx; omega)]
    exact ih fun e he => h e (by simp [he])

theorem findCell_eraseCell (a a' : Nat) (cs : List Host.Cell) (hs : (cs.map Prod.fst).Pairwise (· < ·)) :
    findCell a' (eraseCell a cs) = if a = a' then none else findCell a' cs := by
  induction cs with
  | nil => simp [eraseCell, findCell]
  | cons e rest ih =>
    obtain ⟨x, y⟩ := e
    simp only [List.map_cons, List.pairwise_cons] at hs
    simp only [eraseCell]
    split
    · rename_i h; subst h
      split
      · rename_i h; subst h
        exact findCell_eq_none_of_lt _ _ fun e he => hs.1 _ (List.mem_map_of_mem he)
      · rename_i h; simp [findCell, h]
    · rename_i h; simp only [findCell, ih hs.2]; split <;> split <;> first | rfl | omega

theorem mem_insertCell {a : Nat} {b : Byte} {cs : List Host.Cell} {e : Host.Cell} (h : e ∈ insertCell a b cs) :
    e = (a, b) ∨ e ∈ cs := by
  induction cs with
  | nil => simpa [insertCell] using h
  | cons d rest ih =>
    obtain ⟨x, y⟩ := d
    simp only [insertCell] at h
    split at h
    · simpa using h
    · split at h
      · simp at h; tauto
      · simp only [List.mem_cons] at h ⊢; rcases h with h | h
        · tauto
        · rcases ih h with h | h <;> tauto

theorem mem_of_mem_eraseCell {a : Nat} {cs : List Host.Cell} {e : Host.Cell} (h : e ∈ eraseCell a cs) : e ∈ cs := by
  induction cs with
  | nil => simp [eraseCell] at h
  | cons d rest ih =>
    obtain ⟨x, y⟩ := d
    simp only [eraseCell] at h
    split at h
    · simp [h]
    · simp only [List.mem_cons] at h ⊢; tauto

theorem insertCell_rising (a : Nat) (b : Byte) (cs : List Host.Cell) (hs : (cs.map Prod.fst).Pairwise (· < ·)) :
    ((insertCell a b cs).map Prod.fst).Pairwise (· < ·) := by
  induction cs with
  | nil => simp [insertCell]
  | cons d rest ih =>
    obtain ⟨x, y⟩ := d
    simp only [List.map_cons, List.pairwise_cons, List.mem_map, forall_exists_index, and_imp,
      forall_apply_eq_imp_iff₂] at hs
    simp only [insertCell]
    split
    · rename_i h
      simp only [List.map_cons, List.pairwise_cons, List.mem_cons, List.mem_map, forall_eq_or_imp,
        forall_exists_index, and_imp, forall_apply_eq_imp_iff₂]
      exact ⟨⟨h, fun e he => lt_trans h (hs.1 e he)⟩, hs⟩
    · split
      · rename_i h; subst h; simpa using hs
      · simp only [List.map_cons, List.pairwise_cons, List.mem_map, forall_exists_index, and_imp,
          forall_apply_eq_imp_iff₂]
        refine ⟨fun e he => ?_, ih hs.2⟩
        rcases mem_insertCell he with h | h
        · subst h; simp only; omega
        · exact hs.1 e h

theorem eraseCell_rising (a : Nat) (cs : List Host.Cell) (hs : (cs.map Prod.fst).Pairwise (· < ·)) :
    ((eraseCell a cs).map Prod.fst).Pairwise (· < ·) := by
  induction cs with
  | nil => simp [eraseCell]
  | cons d rest ih =>
    obtain ⟨x, y⟩ := d
    simp only [List.map_cons, List.pairwise_cons] at hs
    simp only [eraseCell]
    split
    · exact hs.2
    · simp only [List.map_cons, List.pairwise_cons, List.mem_map, forall_exists_index, and_imp,
        forall_apply_eq_imp_iff₂]
      exact ⟨fun e he => hs.1 _ (List.mem_map_of_mem (mem_of_mem_eraseCell he)), ih hs.2⟩

/-- The canonical form of a space whose cells are written in the form `Memory.write` gives them. -/
theorem canonicalCells_write {sp : Space} {cs : List Host.Cell} (h : canonicalCells sp cs) (a : Nat) (b : Byte) :
    canonicalCells sp (if sp.unlisted = some b then eraseCell a cs else insertCell a b cs) := by
  split
  · exact ⟨eraseCell_rising a cs h.1, fun e he => h.2 e (mem_of_mem_eraseCell he)⟩
  · rename_i hb
    refine ⟨insertCell_rising a b cs h.1, fun e he => ?_⟩
    rcases mem_insertCell he with rfl | he
    · exact hb
    · exact h.2 e he

theorem Memory.wf_iff (m : Memory) : m.wf ↔ ∀ sp, canonicalCells sp (m.cells sp) :=
  ⟨fun h sp => by cases sp; exacts [h.1, h.2], fun h => ⟨h .storage, h .lineBuf⟩⟩

theorem Memory.cells_write_same (m : Memory) (sp : Space) (a : Nat) (b : Byte) :
    (m.write sp a b).cells sp =
      if sp.unlisted = some b then eraseCell a (m.cells sp) else insertCell a b (m.cells sp) := by
  unfold Memory.write; split <;> simp

theorem Memory.cells_write_other (m : Memory) {sp sp' : Space} (h : sp' ≠ sp) (a : Nat) (b : Byte) :
    (m.write sp a b).cells sp' = m.cells sp' := by
  unfold Memory.write; split <;> exact Memory.cells_setCells_other _ _ h

/-- The memory right after reset is in canonical form. -/
theorem Memory.empty_wf : Memory.empty.wf := by decide

/-- Every write keeps the canonical form. -/
theorem Memory.write_wf {m : Memory} (h : m.wf) (sp : Space) (a : Nat) (b : Byte) : (m.write sp a b).wf := by
  rw [Memory.wf_iff] at *
  intro sp'
  by_cases hsp : sp' = sp
  · subst hsp; rw [Memory.cells_write_same]; exact canonicalCells_write (h sp') a b
  · rw [Memory.cells_write_other _ hsp]; exact h sp'

@[simp] theorem Memory.read_empty_storage (a : Nat) : Memory.empty.read .storage a = none := rfl

@[simp] theorem Memory.read_empty_lineBuf (a : Nat) : Memory.empty.read .lineBuf a = some 0x00 := rfl

/-- A write to one space leaves every byte of the other alone. -/
theorem Memory.read_write_space (m : Memory) {sp sp' : Space} (h : sp' ≠ sp) (a a' : Nat) (b : Byte) :
    (m.write sp a b).read sp' a' = m.read sp' a' := by
  simp only [Memory.read, Memory.cells_write_other m h]

/-- `storage`: a read after a write gives the byte written, or what was there. No premise on the form is needed,
since no byte stands for "no value". -/
theorem Memory.read_write_storage (m : Memory) (a a' : Nat) (b : Byte) :
    (m.write .storage a b).read .storage a' = if a = a' then some b else m.read .storage a' := by
  simp only [Memory.read, Memory.cells_write_same, Space.unlisted, reduceCtorEq, if_false, findCell_insertCell]
  by_cases h : a = a' <;> simp [h]

/-- Either space: a read after a write to it, in a memory of canonical form. -/
theorem Memory.read_write {m : Memory} (h : m.wf) (sp : Space) (a a' : Nat) (b : Byte) :
    (m.write sp a b).read sp a' = if a = a' then some b else m.read sp a' := by
  have hs := ((Memory.wf_iff m).1 h sp).1
  simp only [Memory.read, Memory.cells_write_same]
  by_cases hb : sp.unlisted = some b
  · simp only [hb, if_true, findCell_eraseCell a a' _ hs]
    by_cases ha : a = a' <;> simp [ha]
  · simp only [hb, if_false, findCell_insertCell]
    by_cases ha : a = a' <;> simp [ha]

/-- A byte of `line_buf` always holds a value (R20). -/
theorem Memory.read_lineBuf_isSome (m : Memory) (a : Nat) : (m.read .lineBuf a).isSome := by
  unfold Memory.read; split <;> rfl

/-- Two rising lists without an entry for the unlisted value that answer every address alike are equal. -/
theorem canonicalCells_ext {sp : Space} : ∀ {cs ds : List Host.Cell}, canonicalCells sp cs → canonicalCells sp ds →
    (∀ a, findCell a cs = findCell a ds) → cs = ds
  | [], [], _, _, _ => rfl
  | [], (y, c) :: ds, _, _, h => by have := h y; simp [findCell] at this
  | (x, b) :: cs, [], _, _, h => by have := h x; simp [findCell] at this
  | (x, b) :: cs, (y, c) :: ds, hc, hd, h => by
    have hcs := hc.1; have hds := hd.1
    simp only [List.map_cons, List.pairwise_cons, List.mem_map, forall_exists_index, and_imp,
      forall_apply_eq_imp_iff₂] at hcs hds
    have hxy : x = y := by
      rcases Nat.lt_trichotomy x y with hlt | heq | hgt
      · have h1 := h x
        rw [findCell, if_pos rfl, findCell_eq_none_of_lt x ((y, c) :: ds)] at h1
        · cases h1
        · intro e he
          rcases List.mem_cons.1 he with rfl | he
          · exact hlt
          · exact lt_trans hlt (hds.1 e he)
      · exact heq
      · have h1 := h y
        rw [findCell_eq_none_of_lt y ((x, b) :: cs), findCell, if_pos rfl] at h1
        · cases h1
        · intro e he
          rcases List.mem_cons.1 he with rfl | he
          · exact hgt
          · exact lt_trans hgt (hcs.1 e he)
    subst hxy
    have hbc : b = c := by have := h x; simpa [findCell] using this
    subst hbc
    have : cs = ds := by
      refine canonicalCells_ext ⟨hcs.2, fun e he => hc.2 e (by simp [he])⟩ ⟨hds.2, fun e he => hd.2 e (by simp [he])⟩ ?_
      intro a
      by_cases ha : x = a
      · subst ha
        rw [findCell_eq_none_of_lt x cs hcs.1, findCell_eq_none_of_lt x ds hds.1]
      · have := h a; simpa [findCell, ha] using this
    rw [this]

/-- What the canonical form is for: memories that read alike everywhere are equal data. -/
theorem Memory.ext_read {m m' : Memory} (h : m.wf) (h' : m'.wf) (hr : ∀ sp a, m.read sp a = m'.read sp a) : m = m' := by
  have key : ∀ sp, m.cells sp = m'.cells sp := by
    intro sp
    have c := (Memory.wf_iff m).1 h sp
    have c' := (Memory.wf_iff m').1 h' sp
    refine canonicalCells_ext c c' fun a => ?_
    have hra := hr sp a
    simp only [Memory.read] at hra
    have listed : ∀ {cs : List Host.Cell}, canonicalCells sp cs → findCell a cs ≠ none → findCell a cs ≠ sp.unlisted := by
      intro cs hcs
      induction cs with
      | nil => intro h; exact absurd rfl h
      | cons e rest ih =>
        obtain ⟨x, y⟩ := e
        intro hne
        simp only [findCell] at hne ⊢
        split
        · exact fun he => hcs.2 (x, y) (by simp) he.symm
        · rename_i hxa
          rw [if_neg hxa] at hne
          refine ih ⟨?_, fun e he => hcs.2 e (by simp [he])⟩ hne
          have := hcs.1
          simp only [List.map_cons, List.pairwise_cons] at this
          exact this.2
    cases hf : findCell a (m.cells sp) <;> cases hf' : findCell a (m'.cells sp) <;> simp only [hf, hf'] at hra
    · rfl
    · exact absurd (hf'.trans hra.symm) (listed c' (by simp [hf']))
    · exact absurd (hf.trans hra) (listed c (by simp [hf]))
    · exact hra
  cases m; cases m'
  exact congr (congrArg Memory.mk (key .storage)) (key .lineBuf)

end Sys2Proof.Machine
end

