-- ==== Sys2Proof/Laws/State.lean ====
section
/-! SUPPORT. The small lemmas of the shared operations: what each leaves in each field of the state. A proof cites
them (they are simp lemmas) and unfolds no record update. -/

namespace Sys2Proof.Machine

/-- The end of an operation is a next state, with the result set and nothing else changed. -/
theorem answer_eq_next_iff {r : Result} {s t : State} : answer r s = .next t ↔ t = setResult r s := by
  unfold answer; constructor
  · intro h; cases h; rfl
  · rintro rfl; rfl


/-! `emit`. -/

@[simp] theorem emit_cfg (b : Byte) (s : State) : (emit b s).cfg = s.cfg := rfl
@[simp] theorem emit_mem (b : Byte) (s : State) : (emit b s).mem = s.mem := rfl
@[simp] theorem emit_wc (b : Byte) (s : State) : (emit b s).wc = s.wc := rfl
@[simp] theorem emit_rc (b : Byte) (s : State) : (emit b s).rc = s.rc := rfl
@[simp] theorem emit_avail (b : Byte) (s : State) : (emit b s).avail = s.avail := rfl
@[simp] theorem emit_st (b : Byte) (s : State) : (emit b s).st = s.st := rfl
@[simp] theorem emit_received (b : Byte) (s : State) : (emit b s).received = s.received := rfl
@[simp] theorem emit_processed (b : Byte) (s : State) : (emit b s).processed = s.processed := rfl
@[simp] theorem emit_frameCounter (b : Byte) (s : State) : (emit b s).frameCounter = s.frameCounter := rfl
@[simp] theorem emit_scanline (b : Byte) (s : State) : (emit b s).scanline = s.scanline := rfl
@[simp] theorem emit_lastRow (b : Byte) (s : State) : (emit b s).lastRow = s.lastRow := rfl
@[simp] theorem emit_reqOutstanding (b : Byte) (s : State) : (emit b s).reqOutstanding = s.reqOutstanding := rfl
@[simp] theorem emit_tx (b : Byte) (s : State) : (emit b s).tx = s.tx ++ [b] := rfl
@[simp] theorem emit_out (b : Byte) (s : State) : (emit b s).out = s.out := rfl
@[simp] theorem emit_result (b : Byte) (s : State) : (emit b s).result = s.result := rfl
@[simp] theorem emit_inputs (b : Byte) (s : State) : (emit b s).inputs = s.inputs := rfl
@[simp] theorem emit_freeCount (b : Byte) (s : State) : (emit b s).freeCount = s.freeCount := rfl

/-! `handOver`. -/

@[simp] theorem handOver_cfg (s : State) : (handOver s).cfg = s.cfg := rfl
@[simp] theorem handOver_mem (s : State) : (handOver s).mem = s.mem := rfl
@[simp] theorem handOver_wc (s : State) : (handOver s).wc = s.wc := rfl
@[simp] theorem handOver_rc (s : State) : (handOver s).rc = s.rc := rfl
@[simp] theorem handOver_avail (s : State) : (handOver s).avail = s.avail := rfl
@[simp] theorem handOver_st (s : State) : (handOver s).st = s.st := rfl
@[simp] theorem handOver_received (s : State) : (handOver s).received = s.received := rfl
@[simp] theorem handOver_processed (s : State) : (handOver s).processed = s.processed := rfl
@[simp] theorem handOver_frameCounter (s : State) : (handOver s).frameCounter = s.frameCounter := rfl
@[simp] theorem handOver_scanline (s : State) : (handOver s).scanline = s.scanline := rfl
@[simp] theorem handOver_lastRow (s : State) : (handOver s).lastRow = s.lastRow := rfl
@[simp] theorem handOver_reqOutstanding (s : State) : (handOver s).reqOutstanding = s.reqOutstanding := rfl
@[simp] theorem handOver_tx (s : State) : (handOver s).tx = s.tx := rfl
@[simp] theorem handOver_out (s : State) : (handOver s).out = s.out ++ [lineBuffer s] := rfl
@[simp] theorem handOver_result (s : State) : (handOver s).result = s.result := rfl
@[simp] theorem handOver_inputs (s : State) : (handOver s).inputs = s.inputs := rfl
@[simp] theorem handOver_freeCount (s : State) : (handOver s).freeCount = s.freeCount := rfl

/-! `ringFlush`. -/

@[simp] theorem ringFlush_cfg (s : State) : (ringFlush s).cfg = s.cfg := rfl
@[simp] theorem ringFlush_mem (s : State) : (ringFlush s).mem = s.mem := rfl
@[simp] theorem ringFlush_wc (s : State) : (ringFlush s).wc = 0 := rfl
@[simp] theorem ringFlush_rc (s : State) : (ringFlush s).rc = 0 := rfl
@[simp] theorem ringFlush_avail (s : State) : (ringFlush s).avail = 0 := rfl
@[simp] theorem ringFlush_st (s : State) : (ringFlush s).st = s.st := rfl
@[simp] theorem ringFlush_received (s : State) : (ringFlush s).received = 0 := rfl
@[simp] theorem ringFlush_processed (s : State) : (ringFlush s).processed = 0 := rfl
@[simp] theorem ringFlush_frameCounter (s : State) : (ringFlush s).frameCounter = s.frameCounter := rfl
@[simp] theorem ringFlush_scanline (s : State) : (ringFlush s).scanline = s.scanline := rfl
@[simp] theorem ringFlush_lastRow (s : State) : (ringFlush s).lastRow = s.lastRow := rfl
@[simp] theorem ringFlush_reqOutstanding (s : State) : (ringFlush s).reqOutstanding = false := rfl
@[simp] theorem ringFlush_tx (s : State) : (ringFlush s).tx = s.tx := rfl
@[simp] theorem ringFlush_out (s : State) : (ringFlush s).out = s.out := rfl
@[simp] theorem ringFlush_result (s : State) : (ringFlush s).result = s.result := rfl
@[simp] theorem ringFlush_inputs (s : State) : (ringFlush s).inputs = s.inputs := rfl
@[simp] theorem ringFlush_freeCount (s : State) : (ringFlush s).freeCount = s.freeCount := rfl

/-! `tickFrame`. -/

@[simp] theorem tickFrame_cfg (s : State) : (tickFrame s).cfg = s.cfg := rfl
@[simp] theorem tickFrame_mem (s : State) : (tickFrame s).mem = s.mem := rfl
@[simp] theorem tickFrame_wc (s : State) : (tickFrame s).wc = s.wc := rfl
@[simp] theorem tickFrame_rc (s : State) : (tickFrame s).rc = s.rc := rfl
@[simp] theorem tickFrame_avail (s : State) : (tickFrame s).avail = s.avail := rfl
@[simp] theorem tickFrame_st (s : State) : (tickFrame s).st = s.st := rfl
@[simp] theorem tickFrame_received (s : State) : (tickFrame s).received = s.received := rfl
@[simp] theorem tickFrame_processed (s : State) : (tickFrame s).processed = s.processed := rfl
@[simp] theorem tickFrame_frameCounter (s : State) : (tickFrame s).frameCounter = s.frameCounter := rfl
@[simp] theorem tickFrame_scanline (s : State) : (tickFrame s).scanline = 0 := rfl
@[simp] theorem tickFrame_lastRow (s : State) : (tickFrame s).lastRow = none := rfl
@[simp] theorem tickFrame_reqOutstanding (s : State) : (tickFrame s).reqOutstanding = s.reqOutstanding := rfl
@[simp] theorem tickFrame_tx (s : State) : (tickFrame s).tx = s.tx := rfl
@[simp] theorem tickFrame_out (s : State) : (tickFrame s).out = s.out := rfl
@[simp] theorem tickFrame_result (s : State) : (tickFrame s).result = s.result := rfl
@[simp] theorem tickFrame_inputs (s : State) : (tickFrame s).inputs = s.inputs := rfl
@[simp] theorem tickFrame_freeCount (s : State) : (tickFrame s).freeCount = s.freeCount := rfl

/-! `initialise`. -/

@[simp] theorem initialise_cfg (s : State) : (initialise s).cfg = s.cfg := rfl
@[simp] theorem initialise_mem (s : State) : (initialise s).mem = Memory.empty := rfl
@[simp] theorem initialise_wc (s : State) : (initialise s).wc = 0 := rfl
@[simp] theorem initialise_rc (s : State) : (initialise s).rc = 0 := rfl
@[simp] theorem initialise_avail (s : State) : (initialise s).avail = 0 := rfl
@[simp] theorem initialise_st (s : State) : (initialise s).st = .idle := rfl
@[simp] theorem initialise_received (s : State) : (initialise s).received = 0 := rfl
@[simp] theorem initialise_processed (s : State) : (initialise s).processed = 0 := rfl
@[simp] theorem initialise_frameCounter (s : State) : (initialise s).frameCounter = 0 := rfl
@[simp] theorem initialise_scanline (s : State) : (initialise s).scanline = 0 := rfl
@[simp] theorem initialise_lastRow (s : State) : (initialise s).lastRow = none := rfl
@[simp] theorem initialise_reqOutstanding (s : State) : (initialise s).reqOutstanding = false := rfl
@[simp] theorem initialise_tx (s : State) : (initialise s).tx = s.tx := rfl
@[simp] theorem initialise_out (s : State) : (initialise s).out = s.out := rfl
@[simp] theorem initialise_result (s : State) : (initialise s).result = s.result := rfl
@[simp] theorem initialise_inputs (s : State) : (initialise s).inputs = s.inputs := rfl
@[simp] theorem initialise_freeCount (s : State) : (initialise s).freeCount = s.freeCount := rfl

/-! `State.dequeue`. -/

@[simp] theorem State.dequeue_cfg (s : State) : (s.dequeue).cfg = s.cfg := rfl
@[simp] theorem State.dequeue_mem (s : State) : (s.dequeue).mem = s.mem := rfl
@[simp] theorem State.dequeue_wc (s : State) : (s.dequeue).wc = s.wc := rfl
@[simp] theorem State.dequeue_rc (s : State) : (s.dequeue).rc = s.rc := rfl
@[simp] theorem State.dequeue_avail (s : State) : (s.dequeue).avail = s.avail := rfl
@[simp] theorem State.dequeue_st (s : State) : (s.dequeue).st = s.st := rfl
@[simp] theorem State.dequeue_received (s : State) : (s.dequeue).received = s.received := rfl
@[simp] theorem State.dequeue_processed (s : State) : (s.dequeue).processed = s.processed := rfl
@[simp] theorem State.dequeue_frameCounter (s : State) : (s.dequeue).frameCounter = s.frameCounter := rfl
@[simp] theorem State.dequeue_scanline (s : State) : (s.dequeue).scanline = s.scanline := rfl
@[simp] theorem State.dequeue_lastRow (s : State) : (s.dequeue).lastRow = s.lastRow := rfl
@[simp] theorem State.dequeue_reqOutstanding (s : State) : (s.dequeue).reqOutstanding = s.reqOutstanding := rfl
@[simp] theorem State.dequeue_tx (s : State) : (s.dequeue).tx = s.tx := rfl
@[simp] theorem State.dequeue_out (s : State) : (s.dequeue).out = s.out := rfl
@[simp] theorem State.dequeue_result (s : State) : (s.dequeue).result = s.result := rfl
@[simp] theorem State.dequeue_inputs (s : State) : (s.dequeue).inputs = s.inputs.tail := rfl
@[simp] theorem State.dequeue_freeCount (s : State) : (s.dequeue).freeCount = s.freeCount := rfl

/-! `State.present`. -/

@[simp] theorem State.present_cfg (t : Transaction) (s : State) : (s.present t).cfg = s.cfg := rfl
@[simp] theorem State.present_mem (t : Transaction) (s : State) : (s.present t).mem = s.mem := rfl
@[simp] theorem State.present_wc (t : Transaction) (s : State) : (s.present t).wc = s.wc := rfl
@[simp] theorem State.present_rc (t : Transaction) (s : State) : (s.present t).rc = s.rc := rfl
@[simp] theorem State.present_avail (t : Transaction) (s : State) : (s.present t).avail = s.avail := rfl
@[simp] theorem State.present_st (t : Transaction) (s : State) : (s.present t).st = s.st := rfl
@[simp] theorem State.present_received (t : Transaction) (s : State) : (s.present t).received = s.received := rfl
@[simp] theorem State.present_processed (t : Transaction) (s : State) : (s.present t).processed = s.processed := rfl
@[simp] theorem State.present_frameCounter (t : Transaction) (s : State) : (s.present t).frameCounter = s.frameCounter := rfl
@[simp] theorem State.present_scanline (t : Transaction) (s : State) : (s.present t).scanline = s.scanline := rfl
@[simp] theorem State.present_lastRow (t : Transaction) (s : State) : (s.present t).lastRow = s.lastRow := rfl
@[simp] theorem State.present_reqOutstanding (t : Transaction) (s : State) : (s.present t).reqOutstanding = s.reqOutstanding := rfl
@[simp] theorem State.present_tx (t : Transaction) (s : State) : (s.present t).tx = s.tx := rfl
@[simp] theorem State.present_out (t : Transaction) (s : State) : (s.present t).out = s.out := rfl
@[simp] theorem State.present_result (t : Transaction) (s : State) : (s.present t).result = s.result := rfl
@[simp] theorem State.present_inputs (t : Transaction) (s : State) : (s.present t).inputs = t :: s.inputs := rfl
@[simp] theorem State.present_freeCount (t : Transaction) (s : State) : (s.present t).freeCount = s.freeCount := rfl

/-! `setResult`. -/

@[simp] theorem setResult_cfg (r : Result) (s : State) : (setResult r s).cfg = s.cfg := rfl
@[simp] theorem setResult_mem (r : Result) (s : State) : (setResult r s).mem = s.mem := rfl
@[simp] theorem setResult_wc (r : Result) (s : State) : (setResult r s).wc = s.wc := rfl
@[simp] theorem setResult_rc (r : Result) (s : State) : (setResult r s).rc = s.rc := rfl
@[simp] theorem setResult_avail (r : Result) (s : State) : (setResult r s).avail = s.avail := rfl
@[simp] theorem setResult_st (r : Result) (s : State) : (setResult r s).st = s.st := rfl
@[simp] theorem setResult_received (r : Result) (s : State) : (setResult r s).received = s.received := rfl
@[simp] theorem setResult_processed (r : Result) (s : State) : (setResult r s).processed = s.processed := rfl
@[simp] theorem setResult_frameCounter (r : Result) (s : State) : (setResult r s).frameCounter = s.frameCounter := rfl
@[simp] theorem setResult_scanline (r : Result) (s : State) : (setResult r s).scanline = s.scanline := rfl
@[simp] theorem setResult_lastRow (r : Result) (s : State) : (setResult r s).lastRow = s.lastRow := rfl
@[simp] theorem setResult_reqOutstanding (r : Result) (s : State) : (setResult r s).reqOutstanding = s.reqOutstanding := rfl
@[simp] theorem setResult_tx (r : Result) (s : State) : (setResult r s).tx = s.tx := rfl
@[simp] theorem setResult_out (r : Result) (s : State) : (setResult r s).out = s.out := rfl
@[simp] theorem setResult_result (r : Result) (s : State) : (setResult r s).result = r := rfl
@[simp] theorem setResult_inputs (r : Result) (s : State) : (setResult r s).inputs = s.inputs := rfl
@[simp] theorem setResult_freeCount (r : Result) (s : State) : (setResult r s).freeCount = s.freeCount := rfl

/-! `flushTo`. -/

@[simp] theorem flushTo_cfg (next : FrameState) (s : State) : (flushTo next s).cfg = s.cfg := rfl
@[simp] theorem flushTo_mem (next : FrameState) (s : State) : (flushTo next s).mem = s.mem := rfl
@[simp] theorem flushTo_wc (next : FrameState) (s : State) : (flushTo next s).wc = 0 := rfl
@[simp] theorem flushTo_rc (next : FrameState) (s : State) : (flushTo next s).rc = 0 := rfl
@[simp] theorem flushTo_avail (next : FrameState) (s : State) : (flushTo next s).avail = 0 := rfl
@[simp] theorem flushTo_st (next : FrameState) (s : State) : (flushTo next s).st = next := rfl
@[simp] theorem flushTo_received (next : FrameState) (s : State) : (flushTo next s).received = 0 := rfl
@[simp] theorem flushTo_processed (next : FrameState) (s : State) : (flushTo next s).processed = 0 := rfl
@[simp] theorem flushTo_frameCounter (next : FrameState) (s : State) : (flushTo next s).frameCounter = s.frameCounter := rfl
@[simp] theorem flushTo_scanline (next : FrameState) (s : State) : (flushTo next s).scanline = s.scanline := rfl
@[simp] theorem flushTo_lastRow (next : FrameState) (s : State) : (flushTo next s).lastRow = s.lastRow := rfl
@[simp] theorem flushTo_reqOutstanding (next : FrameState) (s : State) : (flushTo next s).reqOutstanding = false := rfl
@[simp] theorem flushTo_tx (next : FrameState) (s : State) : (flushTo next s).tx = s.tx := rfl
@[simp] theorem flushTo_out (next : FrameState) (s : State) : (flushTo next s).out = s.out := rfl
@[simp] theorem flushTo_result (next : FrameState) (s : State) : (flushTo next s).result = s.result := rfl
@[simp] theorem flushTo_inputs (next : FrameState) (s : State) : (flushTo next s).inputs = s.inputs := rfl
@[simp] theorem flushTo_freeCount (next : FrameState) (s : State) : (flushTo next s).freeCount = s.freeCount := rfl

/-! `countFrame`. -/

@[simp] theorem countFrame_cfg (s : State) : (countFrame s).cfg = s.cfg := rfl
@[simp] theorem countFrame_mem (s : State) : (countFrame s).mem = s.mem := rfl
@[simp] theorem countFrame_wc (s : State) : (countFrame s).wc = s.wc := rfl
@[simp] theorem countFrame_rc (s : State) : (countFrame s).rc = s.rc := rfl
@[simp] theorem countFrame_avail (s : State) : (countFrame s).avail = s.avail := rfl
@[simp] theorem countFrame_st (s : State) : (countFrame s).st = s.st := rfl
@[simp] theorem countFrame_received (s : State) : (countFrame s).received = s.received := rfl
@[simp] theorem countFrame_processed (s : State) : (countFrame s).processed = s.processed := rfl
@[simp] theorem countFrame_frameCounter (s : State) : (countFrame s).frameCounter = raise s.cfg s.frameCounter 1 := rfl
@[simp] theorem countFrame_scanline (s : State) : (countFrame s).scanline = s.scanline := rfl
@[simp] theorem countFrame_lastRow (s : State) : (countFrame s).lastRow = s.lastRow := rfl
@[simp] theorem countFrame_reqOutstanding (s : State) : (countFrame s).reqOutstanding = s.reqOutstanding := rfl
@[simp] theorem countFrame_tx (s : State) : (countFrame s).tx = s.tx := rfl
@[simp] theorem countFrame_out (s : State) : (countFrame s).out = s.out := rfl
@[simp] theorem countFrame_result (s : State) : (countFrame s).result = s.result := rfl
@[simp] theorem countFrame_inputs (s : State) : (countFrame s).inputs = s.inputs := rfl
@[simp] theorem countFrame_freeCount (s : State) : (countFrame s).freeCount = s.freeCount := rfl

/-! `startOfFrame`. -/

@[simp] theorem startOfFrame_cfg (s : State) : (startOfFrame s).cfg = s.cfg := rfl
@[simp] theorem startOfFrame_mem (s : State) : (startOfFrame s).mem = s.mem := rfl
@[simp] theorem startOfFrame_wc (s : State) : (startOfFrame s).wc = 0 := rfl
@[simp] theorem startOfFrame_rc (s : State) : (startOfFrame s).rc = 0 := rfl
@[simp] theorem startOfFrame_avail (s : State) : (startOfFrame s).avail = 0 := rfl
@[simp] theorem startOfFrame_st (s : State) : (startOfFrame s).st = .receiving := rfl
@[simp] theorem startOfFrame_received (s : State) : (startOfFrame s).received = 0 := rfl
@[simp] theorem startOfFrame_processed (s : State) : (startOfFrame s).processed = 0 := rfl
@[simp] theorem startOfFrame_frameCounter (s : State) : (startOfFrame s).frameCounter = s.frameCounter := rfl
@[simp] theorem startOfFrame_scanline (s : State) : (startOfFrame s).scanline = s.scanline := rfl
@[simp] theorem startOfFrame_lastRow (s : State) : (startOfFrame s).lastRow = s.lastRow := rfl
@[simp] theorem startOfFrame_reqOutstanding (s : State) : (startOfFrame s).reqOutstanding = false := rfl
@[simp] theorem startOfFrame_tx (s : State) : (startOfFrame s).tx = s.tx := rfl
@[simp] theorem startOfFrame_out (s : State) : (startOfFrame s).out = s.out := rfl
@[simp] theorem startOfFrame_result (s : State) : (startOfFrame s).result = s.result := rfl
@[simp] theorem startOfFrame_inputs (s : State) : (startOfFrame s).inputs = s.inputs := rfl
@[simp] theorem startOfFrame_freeCount (s : State) : (startOfFrame s).freeCount = s.freeCount := rfl

/-! `clearRequestAboveMark`. -/

@[simp] theorem clearRequestAboveMark_cfg (s : State) : (clearRequestAboveMark s).cfg = s.cfg := by unfold clearRequestAboveMark; split <;> rfl
@[simp] theorem clearRequestAboveMark_mem (s : State) : (clearRequestAboveMark s).mem = s.mem := by unfold clearRequestAboveMark; split <;> rfl
@[simp] theorem clearRequestAboveMark_wc (s : State) : (clearRequestAboveMark s).wc = s.wc := by unfold clearRequestAboveMark; split <;> rfl
@[simp] theorem clearRequestAboveMark_rc (s : State) : (clearRequestAboveMark s).rc = s.rc := by unfold clearRequestAboveMark; split <;> rfl
@[simp] theorem clearRequestAboveMark_avail (s : State) : (clearRequestAboveMark s).avail = s.avail := by unfold clearRequestAboveMark; split <;> rfl
@[simp] theorem clearRequestAboveMark_st (s : State) : (clearRequestAboveMark s).st = s.st := by unfold clearRequestAboveMark; split <;> rfl
@[simp] theorem clearRequestAboveMark_received (s : State) : (clearRequestAboveMark s).received = s.received := by unfold clearRequestAboveMark; split <;> rfl
@[simp] theorem clearRequestAboveMark_processed (s : State) : (clearRequestAboveMark s).processed = s.processed := by unfold clearRequestAboveMark; split <;> rfl
@[simp] theorem clearRequestAboveMark_frameCounter (s : State) : (clearRequestAboveMark s).frameCounter = s.frameCounter := by unfold clearRequestAboveMark; split <;> rfl
@[simp] theorem clearRequestAboveMark_scanline (s : State) : (clearRequestAboveMark s).scanline = s.scanline := by unfold clearRequestAboveMark; split <;> rfl
@[simp] theorem clearRequestAboveMark_lastRow (s : State) : (clearRequestAboveMark s).lastRow = s.lastRow := by unfold clearRequestAboveMark; split <;> rfl
@[simp] theorem clearRequestAboveMark_reqOutstanding (s : State) : (clearRequestAboveMark s).reqOutstanding = (s.reqOutstanding && low s) := by unfold clearRequestAboveMark; split <;> simp [*]
@[simp] theorem clearRequestAboveMark_tx (s : State) : (clearRequestAboveMark s).tx = s.tx := by unfold clearRequestAboveMark; split <;> rfl
@[simp] theorem clearRequestAboveMark_out (s : State) : (clearRequestAboveMark s).out = s.out := by unfold clearRequestAboveMark; split <;> rfl
@[simp] theorem clearRequestAboveMark_result (s : State) : (clearRequestAboveMark s).result = s.result := by unfold clearRequestAboveMark; split <;> rfl
@[simp] theorem clearRequestAboveMark_inputs (s : State) : (clearRequestAboveMark s).inputs = s.inputs := by unfold clearRequestAboveMark; split <;> rfl
@[simp] theorem clearRequestAboveMark_freeCount (s : State) : (clearRequestAboveMark s).freeCount = s.freeCount := by unfold clearRequestAboveMark; split <;> rfl

/-! `sendRequest`. -/

@[simp] theorem sendRequest_cfg (s : State) : (sendRequest s).cfg = s.cfg := by unfold sendRequest; split <;> rfl
@[simp] theorem sendRequest_mem (s : State) : (sendRequest s).mem = s.mem := by unfold sendRequest; split <;> rfl
@[simp] theorem sendRequest_wc (s : State) : (sendRequest s).wc = s.wc := by unfold sendRequest; split <;> rfl
@[simp] theorem sendRequest_rc (s : State) : (sendRequest s).rc = s.rc := by unfold sendRequest; split <;> rfl
@[simp] theorem sendRequest_avail (s : State) : (sendRequest s).avail = s.avail := by unfold sendRequest; split <;> rfl
@[simp] theorem sendRequest_st (s : State) : (sendRequest s).st = s.st := by unfold sendRequest; split <;> rfl
@[simp] theorem sendRequest_received (s : State) : (sendRequest s).received = s.received := by unfold sendRequest; split <;> rfl
@[simp] theorem sendRequest_processed (s : State) : (sendRequest s).processed = s.processed := by unfold sendRequest; split <;> rfl
@[simp] theorem sendRequest_frameCounter (s : State) : (sendRequest s).frameCounter = s.frameCounter := by unfold sendRequest; split <;> rfl
@[simp] theorem sendRequest_scanline (s : State) : (sendRequest s).scanline = s.scanline := by unfold sendRequest; split <;> rfl
@[simp] theorem sendRequest_lastRow (s : State) : (sendRequest s).lastRow = s.lastRow := by unfold sendRequest; split <;> rfl
@[simp] theorem sendRequest_reqOutstanding (s : State) : (sendRequest s).reqOutstanding = (s.cfg.reqDedup || s.reqOutstanding) := by unfold sendRequest; split <;> simp [*]
@[simp] theorem sendRequest_tx (s : State) : (sendRequest s).tx = s.tx ++ [s.cfg.cmdReq] := by unfold sendRequest; split <;> rfl
@[simp] theorem sendRequest_out (s : State) : (sendRequest s).out = s.out := by unfold sendRequest; split <;> rfl
@[simp] theorem sendRequest_result (s : State) : (sendRequest s).result = s.result := by unfold sendRequest; split <;> rfl
@[simp] theorem sendRequest_inputs (s : State) : (sendRequest s).inputs = s.inputs := by unfold sendRequest; split <;> rfl
@[simp] theorem sendRequest_freeCount (s : State) : (sendRequest s).freeCount = s.freeCount := by unfold sendRequest; split <;> rfl

/-! `sendAck`. -/

@[simp] theorem sendAck_cfg (s : State) : (sendAck s).cfg = s.cfg := by unfold sendAck; split <;> rfl
@[simp] theorem sendAck_mem (s : State) : (sendAck s).mem = s.mem := by unfold sendAck; split <;> rfl
@[simp] theorem sendAck_wc (s : State) : (sendAck s).wc = s.wc := by unfold sendAck; split <;> rfl
@[simp] theorem sendAck_rc (s : State) : (sendAck s).rc = s.rc := by unfold sendAck; split <;> rfl
@[simp] theorem sendAck_avail (s : State) : (sendAck s).avail = s.avail := by unfold sendAck; split <;> rfl
@[simp] theorem sendAck_st (s : State) : (sendAck s).st = s.st := by unfold sendAck; split <;> rfl
@[simp] theorem sendAck_received (s : State) : (sendAck s).received = s.received := by unfold sendAck; split <;> rfl
@[simp] theorem sendAck_processed (s : State) : (sendAck s).processed = s.processed := by unfold sendAck; split <;> rfl
@[simp] theorem sendAck_frameCounter (s : State) : (sendAck s).frameCounter = s.frameCounter := by unfold sendAck; split <;> rfl
@[simp] theorem sendAck_scanline (s : State) : (sendAck s).scanline = s.scanline := by unfold sendAck; split <;> rfl
@[simp] theorem sendAck_lastRow (s : State) : (sendAck s).lastRow = s.lastRow := by unfold sendAck; split <;> rfl
@[simp] theorem sendAck_reqOutstanding (s : State) : (sendAck s).reqOutstanding = s.reqOutstanding := by unfold sendAck; split <;> rfl
@[simp] theorem sendAck_tx (s : State) : (sendAck s).tx = if s.cfg.ackEnable then s.tx ++ [s.cfg.ackByte] else s.tx := by unfold sendAck; split <;> rfl
@[simp] theorem sendAck_out (s : State) : (sendAck s).out = s.out := by unfold sendAck; split <;> rfl
@[simp] theorem sendAck_result (s : State) : (sendAck s).result = s.result := by unfold sendAck; split <;> rfl
@[simp] theorem sendAck_inputs (s : State) : (sendAck s).inputs = s.inputs := by unfold sendAck; split <;> rfl
@[simp] theorem sendAck_freeCount (s : State) : (sendAck s).freeCount = s.freeCount := by unfold sendAck; split <;> rfl

/-! `checkFlow`. -/

@[simp] theorem checkFlow_cfg (s : State) : (checkFlow s).cfg = s.cfg := by unfold checkFlow; split <;> [skip; rfl]; split <;> simp
@[simp] theorem checkFlow_mem (s : State) : (checkFlow s).mem = s.mem := by unfold checkFlow; split <;> [skip; rfl]; split <;> simp
@[simp] theorem checkFlow_wc (s : State) : (checkFlow s).wc = s.wc := by unfold checkFlow; split <;> [skip; rfl]; split <;> simp
@[simp] theorem checkFlow_rc (s : State) : (checkFlow s).rc = s.rc := by unfold checkFlow; split <;> [skip; rfl]; split <;> simp
@[simp] theorem checkFlow_avail (s : State) : (checkFlow s).avail = s.avail := by unfold checkFlow; split <;> [skip; rfl]; split <;> simp
@[simp] theorem checkFlow_st (s : State) : (checkFlow s).st = s.st := by unfold checkFlow; split <;> [skip; rfl]; split <;> simp
@[simp] theorem checkFlow_received (s : State) : (checkFlow s).received = s.received := by unfold checkFlow; split <;> [skip; rfl]; split <;> simp
@[simp] theorem checkFlow_processed (s : State) : (checkFlow s).processed = s.processed := by unfold checkFlow; split <;> [skip; rfl]; split <;> simp
@[simp] theorem checkFlow_frameCounter (s : State) : (checkFlow s).frameCounter = s.frameCounter := by unfold checkFlow; split <;> [skip; rfl]; split <;> simp
@[simp] theorem checkFlow_scanline (s : State) : (checkFlow s).scanline = s.scanline := by unfold checkFlow; split <;> [skip; rfl]; split <;> simp
@[simp] theorem checkFlow_lastRow (s : State) : (checkFlow s).lastRow = s.lastRow := by unfold checkFlow; split <;> [skip; rfl]; split <;> simp
@[simp] theorem checkFlow_out (s : State) : (checkFlow s).out = s.out := by unfold checkFlow; split <;> [skip; rfl]; split <;> simp
@[simp] theorem checkFlow_result (s : State) : (checkFlow s).result = s.result := by unfold checkFlow; split <;> [skip; rfl]; split <;> simp
@[simp] theorem checkFlow_inputs (s : State) : (checkFlow s).inputs = s.inputs := by unfold checkFlow; split <;> [skip; rfl]; split <;> simp
@[simp] theorem checkFlow_freeCount (s : State) : (checkFlow s).freeCount = s.freeCount := by unfold checkFlow; split <;> [skip; rfl]; split <;> simp

/-! `ringWrite`. -/

@[simp] theorem ringWrite_cfg (data : List Byte) (s : State) : (ringWrite data s).cfg = s.cfg := by simp [ringWrite]
@[simp] theorem ringWrite_mem (data : List Byte) (s : State) : (ringWrite data s).mem = memWrite s.cfg s.wc 0 (data.take (acceptedCount data s)) s.mem := by simp [ringWrite]
@[simp] theorem ringWrite_wc (data : List Byte) (s : State) : (ringWrite data s).wc = advance s.cfg s.wc (acceptedCount data s) := by simp [ringWrite]
@[simp] theorem ringWrite_rc (data : List Byte) (s : State) : (ringWrite data s).rc = s.rc := by simp [ringWrite]
@[simp] theorem ringWrite_avail (data : List Byte) (s : State) : (ringWrite data s).avail = raise s.cfg s.avail (acceptedCount data s) := by simp [ringWrite]
@[simp] theorem ringWrite_st (data : List Byte) (s : State) : (ringWrite data s).st = s.st := by simp [ringWrite]
@[simp] theorem ringWrite_received (data : List Byte) (s : State) : (ringWrite data s).received = s.received := by simp [ringWrite]
@[simp] theorem ringWrite_processed (data : List Byte) (s : State) : (ringWrite data s).processed = s.processed := by simp [ringWrite]
@[simp] theorem ringWrite_frameCounter (data : List Byte) (s : State) : (ringWrite data s).frameCounter = s.frameCounter := by simp [ringWrite]
@[simp] theorem ringWrite_scanline (data : List Byte) (s : State) : (ringWrite data s).scanline = s.scanline := by simp [ringWrite]
@[simp] theorem ringWrite_lastRow (data : List Byte) (s : State) : (ringWrite data s).lastRow = s.lastRow := by simp [ringWrite]
@[simp] theorem ringWrite_tx (data : List Byte) (s : State) : (ringWrite data s).tx = s.tx := by simp [ringWrite]
@[simp] theorem ringWrite_out (data : List Byte) (s : State) : (ringWrite data s).out = s.out := by simp [ringWrite]
@[simp] theorem ringWrite_result (data : List Byte) (s : State) : (ringWrite data s).result = s.result := by simp [ringWrite]
@[simp] theorem ringWrite_inputs (data : List Byte) (s : State) : (ringWrite data s).inputs = s.inputs := by simp [ringWrite]
@[simp] theorem ringWrite_freeCount (data : List Byte) (s : State) : (ringWrite data s).freeCount = s.freeCount := by simp [ringWrite]

/-! `acceptPayload`. -/

@[simp] theorem acceptPayload_cfg (data : List Byte) (s : State) : (acceptPayload data s).cfg = s.cfg := by simp [acceptPayload]
@[simp] theorem acceptPayload_mem (data : List Byte) (s : State) : (acceptPayload data s).mem = memWrite s.cfg s.wc 0 (data.take (acceptedCount data s)) s.mem := by simp [acceptPayload]
@[simp] theorem acceptPayload_wc (data : List Byte) (s : State) : (acceptPayload data s).wc = advance s.cfg s.wc (acceptedCount data s) := by simp [acceptPayload]
@[simp] theorem acceptPayload_rc (data : List Byte) (s : State) : (acceptPayload data s).rc = s.rc := by simp [acceptPayload]
@[simp] theorem acceptPayload_avail (data : List Byte) (s : State) : (acceptPayload data s).avail = raise s.cfg s.avail (acceptedCount data s) := by simp [acceptPayload]
@[simp] theorem acceptPayload_st (data : List Byte) (s : State) : (acceptPayload data s).st = s.st := by simp [acceptPayload]
@[simp] theorem acceptPayload_received (data : List Byte) (s : State) : (acceptPayload data s).received = raise s.cfg s.received (acceptedCount data s) := rfl
@[simp] theorem acceptPayload_processed (data : List Byte) (s : State) : (acceptPayload data s).processed = s.processed := by simp [acceptPayload]
@[simp] theorem acceptPayload_frameCounter (data : List Byte) (s : State) : (acceptPayload data s).frameCounter = s.frameCounter := by simp [acceptPayload]
@[simp] theorem acceptPayload_scanline (data : List Byte) (s : State) : (acceptPayload data s).scanline = s.scanline := by simp [acceptPayload]
@[simp] theorem acceptPayload_lastRow (data : List Byte) (s : State) : (acceptPayload data s).lastRow = s.lastRow := by simp [acceptPayload]
@[simp] theorem acceptPayload_tx (data : List Byte) (s : State) : (acceptPayload data s).tx = s.tx := by simp [acceptPayload]
@[simp] theorem acceptPayload_out (data : List Byte) (s : State) : (acceptPayload data s).out = s.out := by simp [acceptPayload]
@[simp] theorem acceptPayload_result (data : List Byte) (s : State) : (acceptPayload data s).result = s.result := by simp [acceptPayload]
@[simp] theorem acceptPayload_inputs (data : List Byte) (s : State) : (acceptPayload data s).inputs = s.inputs := by simp [acceptPayload]
@[simp] theorem acceptPayload_freeCount (data : List Byte) (s : State) : (acceptPayload data s).freeCount = s.freeCount := by simp [acceptPayload]

/-! `dataMarker`. -/

@[simp] theorem dataMarker_cfg (s : State) : (dataMarker s).cfg = s.cfg := by unfold dataMarker; split <;> simp
@[simp] theorem dataMarker_mem (s : State) : (dataMarker s).mem = s.mem := by unfold dataMarker; split <;> simp
@[simp] theorem dataMarker_st (s : State) : (dataMarker s).st = .receiving := by unfold dataMarker; split <;> simp [*]
@[simp] theorem dataMarker_frameCounter (s : State) : (dataMarker s).frameCounter = s.frameCounter := by unfold dataMarker; split <;> simp
@[simp] theorem dataMarker_scanline (s : State) : (dataMarker s).scanline = s.scanline := by unfold dataMarker; split <;> simp
@[simp] theorem dataMarker_lastRow (s : State) : (dataMarker s).lastRow = s.lastRow := by unfold dataMarker; split <;> simp
@[simp] theorem dataMarker_tx (s : State) : (dataMarker s).tx = s.tx := by unfold dataMarker; split <;> simp
@[simp] theorem dataMarker_out (s : State) : (dataMarker s).out = s.out := by unfold dataMarker; split <;> simp
@[simp] theorem dataMarker_result (s : State) : (dataMarker s).result = s.result := by unfold dataMarker; split <;> simp
@[simp] theorem dataMarker_inputs (s : State) : (dataMarker s).inputs = s.inputs := by unfold dataMarker; split <;> simp
@[simp] theorem dataMarker_freeCount (s : State) : (dataMarker s).freeCount = s.freeCount := by unfold dataMarker; split <;> simp

/-! `endOfFrame`. -/

@[simp] theorem endOfFrame_cfg (s : State) : (endOfFrame s).cfg = s.cfg := by unfold endOfFrame; split <;> simp
@[simp] theorem endOfFrame_mem (s : State) : (endOfFrame s).mem = s.mem := by unfold endOfFrame; split <;> simp
@[simp] theorem endOfFrame_wc (s : State) : (endOfFrame s).wc = 0 := by unfold endOfFrame; split <;> simp
@[simp] theorem endOfFrame_rc (s : State) : (endOfFrame s).rc = 0 := by unfold endOfFrame; split <;> simp
@[simp] theorem endOfFrame_avail (s : State) : (endOfFrame s).avail = 0 := by unfold endOfFrame; split <;> simp
@[simp] theorem endOfFrame_st (s : State) : (endOfFrame s).st = .complete := by unfold endOfFrame; split <;> simp
@[simp] theorem endOfFrame_received (s : State) : (endOfFrame s).received = 0 := by unfold endOfFrame; split <;> simp
@[simp] theorem endOfFrame_processed (s : State) : (endOfFrame s).processed = 0 := by unfold endOfFrame; split <;> simp
@[simp] theorem endOfFrame_scanline (s : State) : (endOfFrame s).scanline = s.scanline := by unfold endOfFrame; split <;> simp
@[simp] theorem endOfFrame_lastRow (s : State) : (endOfFrame s).lastRow = s.lastRow := by unfold endOfFrame; split <;> simp
@[simp] theorem endOfFrame_reqOutstanding (s : State) : (endOfFrame s).reqOutstanding = false := by unfold endOfFrame; split <;> simp
@[simp] theorem endOfFrame_out (s : State) : (endOfFrame s).out = s.out := by unfold endOfFrame; split <;> simp
@[simp] theorem endOfFrame_result (s : State) : (endOfFrame s).result = s.result := by unfold endOfFrame; split <;> simp
@[simp] theorem endOfFrame_inputs (s : State) : (endOfFrame s).inputs = s.inputs := by unfold endOfFrame; split <;> simp
@[simp] theorem endOfFrame_freeCount (s : State) : (endOfFrame s).freeCount = s.freeCount := by unfold endOfFrame; split <;> simp

/-! `payload`. -/

@[simp] theorem payload_cfg (data : List Byte) (s : State) : (payload data s).cfg = s.cfg := by unfold payload; split <;> simp
@[simp] theorem payload_rc (data : List Byte) (s : State) : (payload data s).rc = s.rc := by unfold payload; split <;> simp
@[simp] theorem payload_st (data : List Byte) (s : State) : (payload data s).st = s.st := by unfold payload; split <;> simp
@[simp] theorem payload_processed (data : List Byte) (s : State) : (payload data s).processed = s.processed := by unfold payload; split <;> simp
@[simp] theorem payload_frameCounter (data : List Byte) (s : State) : (payload data s).frameCounter = s.frameCounter := by unfold payload; split <;> simp
@[simp] theorem payload_scanline (data : List Byte) (s : State) : (payload data s).scanline = s.scanline := by unfold payload; split <;> simp
@[simp] theorem payload_lastRow (data : List Byte) (s : State) : (payload data s).lastRow = s.lastRow := by unfold payload; split <;> simp
@[simp] theorem payload_tx (data : List Byte) (s : State) : (payload data s).tx = s.tx := by unfold payload; split <;> simp
@[simp] theorem payload_out (data : List Byte) (s : State) : (payload data s).out = s.out := by unfold payload; split <;> simp
@[simp] theorem payload_result (data : List Byte) (s : State) : (payload data s).result = s.result := by unfold payload; split <;> simp
@[simp] theorem payload_inputs (data : List Byte) (s : State) : (payload data s).inputs = s.inputs := by unfold payload; split <;> simp
@[simp] theorem payload_freeCount (data : List Byte) (s : State) : (payload data s).freeCount = s.freeCount := by unfold payload; split <;> simp

/-! `ringReadLine`: the state after. -/

@[simp] theorem ringReadLine_cfg (s : State) : (ringReadLine s).2.cfg = s.cfg := by unfold ringReadLine; split <;> rfl
@[simp] theorem ringReadLine_mem (s : State) : (ringReadLine s).2.mem = s.mem := by unfold ringReadLine; split <;> rfl
@[simp] theorem ringReadLine_wc (s : State) : (ringReadLine s).2.wc = s.wc := by unfold ringReadLine; split <;> rfl
@[simp] theorem ringReadLine_st (s : State) : (ringReadLine s).2.st = s.st := by unfold ringReadLine; split <;> rfl
@[simp] theorem ringReadLine_received (s : State) : (ringReadLine s).2.received = s.received := by unfold ringReadLine; split <;> rfl
@[simp] theorem ringReadLine_processed (s : State) : (ringReadLine s).2.processed = s.processed := by unfold ringReadLine; split <;> rfl
@[simp] theorem ringReadLine_frameCounter (s : State) : (ringReadLine s).2.frameCounter = s.frameCounter := by unfold ringReadLine; split <;> rfl
@[simp] theorem ringReadLine_scanline (s : State) : (ringReadLine s).2.scanline = s.scanline := by unfold ringReadLine; split <;> rfl
@[simp] theorem ringReadLine_lastRow (s : State) : (ringReadLine s).2.lastRow = s.lastRow := by unfold ringReadLine; split <;> rfl
@[simp] theorem ringReadLine_reqOutstanding (s : State) : (ringReadLine s).2.reqOutstanding = s.reqOutstanding := by unfold ringReadLine; split <;> rfl
@[simp] theorem ringReadLine_tx (s : State) : (ringReadLine s).2.tx = s.tx := by unfold ringReadLine; split <;> rfl
@[simp] theorem ringReadLine_out (s : State) : (ringReadLine s).2.out = s.out := by unfold ringReadLine; split <;> rfl
@[simp] theorem ringReadLine_result (s : State) : (ringReadLine s).2.result = s.result := by unfold ringReadLine; split <;> rfl
@[simp] theorem ringReadLine_inputs (s : State) : (ringReadLine s).2.inputs = s.inputs := by unfold ringReadLine; split <;> rfl

end Sys2Proof.Machine
end

