-- ==== Sys2Proof/Laws/Ops.lean ====
section
/-! SUPPORT. For each shared operation what it can do, said once: the bytes a write stores and leaves, the cases of a
read, of a flow check, of a received block, of a fetch and of a tick. The provers cite these and unfold nothing. -/

namespace Sys2Proof.Machine

/-! ## The ring's bytes -/

theorem ringIndex_lt (c : Config) (a i : Nat) : ringIndex c a i < c.C := Nat.mod_lt _ c.C_pos

/-- Two byte numbers less than `C` apart have different indices. -/
theorem ringIndex_ne {c : Config} {a i j : Nat} (h : i < j) (hC : j < i + c.C) : ringIndex c a i ≠ ringIndex c a j := by
  intro he
  have h1 : (a + i) ≡ (a + j) [MOD c.C] := he
  have h2 : i ≡ j [MOD c.C] := Nat.ModEq.add_left_cancel' a h1
  have h3 := (Nat.modEq_iff_dvd' (le_of_lt h)).1 h2
  exact absurd (Nat.le_of_dvd (by omega) h3) (by omega)

theorem memWrite_wf (c : Config) (a : Nat) : ∀ (data : List Byte) (i : Nat) {m : Memory} (_ : m.wf), (memWrite c a i data m).wf
  | [], _, _, h => h
  | b :: bs, i, _, h => memWrite_wf c a bs (i + 1) (Memory.write_wf h .storage (ringIndex c a i) b)

/-- A ring write leaves `line_buf` alone. -/
@[simp] theorem memWrite_read_lineBuf (c : Config) (a : Nat) :
    ∀ (data : List Byte) (i : Nat) (m : Memory) (x : Nat),
      (memWrite c a i data m).read .lineBuf x = m.read .lineBuf x
  | [], _, _, _ => rfl
  | b :: bs, i, m, x => by
    rw [memWrite, memWrite_read_lineBuf c a bs, Memory.read_write_space _ (by decide)]

/-- An index that no byte of the write lands on keeps its byte. -/
theorem memWrite_read_outside (c : Config) (a : Nat) :
    ∀ (data : List Byte) (i : Nat) (m : Memory) (x : Nat),
      (∀ k < data.length, ringIndex c a (i + k) ≠ x) → (memWrite c a i data m).read .storage x = m.read .storage x
  | [], _, _, _, _ => rfl
  | b :: bs, i, m, x, h => by
    rw [memWrite, memWrite_read_outside c a bs (i + 1), Memory.read_write_storage, if_neg]
    · simpa using h 0 (by simp)
    · intro k hk
      have := h (k + 1) (by simpa using hk)
      rwa [show i + 1 + k = i + (k + 1) by omega]

/-- The last byte of the write that lands on an index is the one it holds after. -/
theorem memWrite_read_at (c : Config) (a : Nat) :
    ∀ (data : List Byte) (i : Nat) (m : Memory) (k : Nat), k < data.length →
      (∀ j, k < j → j < data.length → ringIndex c a (i + k) ≠ ringIndex c a (i + j)) →
      (memWrite c a i data m).read .storage (ringIndex c a (i + k)) = data[k]?
  | [], _, _, k, hk, _ => by simp at hk
  | b :: bs, i, m, 0, _, h => by
    rw [memWrite, memWrite_read_outside c a bs (i + 1)]
    · simp [Memory.read_write_storage]
    · intro j hj
      have := h (j + 1) (by omega) (by simpa using hj)
      rw [show i + 1 + j = i + (j + 1) by omega]
      exact Ne.symm (by simpa using this)
  | b :: bs, i, m, k + 1, hk, h => by
    rw [memWrite, show i + (k + 1) = (i + 1) + k by omega]
    rw [memWrite_read_at c a bs (i + 1) _ k (by simpa using hk)]
    · simp
    · intro j hj hjl
      have := h (j + 1) (by omega) (by simpa using hjl)
      rwa [show i + 1 + k = i + (k + 1) by omega, show i + 1 + j = i + (j + 1) by omega]

/-- A written index stays written. -/
theorem memWrite_keeps_written (c : Config) (a : Nat) :
    ∀ (data : List Byte) (i : Nat) (m : Memory) (x : Nat), (m.read .storage x).isSome →
      ((memWrite c a i data m).read .storage x).isSome
  | [], _, _, _, h => h
  | b :: bs, i, m, x, h => by
    rw [memWrite]
    refine memWrite_keeps_written c a bs (i + 1) _ x ?_
    rw [Memory.read_write_storage]
    split <;> simp [h]

/-- Every index that a byte of the write lands on is written after it. -/
theorem memWrite_written (c : Config) (a : Nat) :
    ∀ (data : List Byte) (i : Nat) (m : Memory) (k : Nat), k < data.length →
      ((memWrite c a i data m).read .storage (ringIndex c a (i + k))).isSome
  | [], _, _, k, hk => by simp at hk
  | b :: bs, i, m, 0, _ => by
    rw [memWrite]
    exact memWrite_keeps_written c a bs (i + 1) _ _ (by simp [Memory.read_write_storage])
  | b :: bs, i, m, k + 1, hk => by
    rw [memWrite, show i + (k + 1) = (i + 1) + k by omega]
    exact memWrite_written c a bs (i + 1) _ k (by simpa using hk)

theorem memWrite_append (c : Config) (a : Nat) :
    ∀ (xs ys : List Byte) (i : Nat) (m : Memory),
      memWrite c a i (xs ++ ys) m = memWrite c a (i + xs.length) ys (memWrite c a i xs m)
  | [], _, _, _ => rfl
  | x :: xs, ys, i, m => by
    rw [List.cons_append, memWrite, memWrite, memWrite_append c a xs ys (i + 1)]
    simp only [List.length_cons]
    rw [show i + 1 + xs.length = i + (xs.length + 1) by omega]

/-- Starting from an advanced cursor is the same as counting on from it. -/
theorem memWrite_advance (c : Config) (a n : Nat) :
    ∀ (data : List Byte) (i : Nat) (m : Memory), memWrite c (advance c a n) i data m = memWrite c a (n + i) data m
  | [], _, _ => rfl
  | b :: bs, i, m => by
    rw [memWrite, memWrite, memWrite_advance c a n bs (i + 1)]
    have : ringIndex c (advance c a n) i = ringIndex c a (n + i) := by
      simp only [ringIndex, advance, Nat.mod_add_mod, Nat.add_assoc]
    rw [this, Nat.add_assoc]

/-! ## The line buffer's bytes -/

theorem lineIndex_inj {c : Config} {i j : Nat} (h : lineIndex c i = lineIndex c j) : i = j := by
  simpa [lineIndex] using h

theorem lineWrite_wf (c : Config) : ∀ (data : List Byte) (i : Nat) {m : Memory} (_ : m.wf), (lineWrite c i data m).wf
  | [], _, _, h => h
  | b :: bs, i, _, h => lineWrite_wf c bs (i + 1) (Memory.write_wf h .lineBuf (lineIndex c i) b)

/-- A fetched line leaves `storage` alone. -/
@[simp] theorem lineWrite_read_storage (c : Config) :
    ∀ (data : List Byte) (i : Nat) (m : Memory) (x : Nat),
      (lineWrite c i data m).read .storage x = m.read .storage x
  | [], _, _, _ => rfl
  | b :: bs, i, m, x => by
    rw [lineWrite, lineWrite_read_storage c bs, Memory.read_write_space _ (by decide)]

theorem lineWrite_read_outside (c : Config) :
    ∀ (data : List Byte) (i : Nat) {m : Memory} (_ : m.wf) (x : Nat),
      (∀ k < data.length, lineIndex c (i + k) ≠ x) → (lineWrite c i data m).read .lineBuf x = m.read .lineBuf x
  | [], _, _, _, _, _ => rfl
  | b :: bs, i, m, hm, x, h => by
    rw [lineWrite, lineWrite_read_outside c bs (i + 1) (Memory.write_wf hm _ _ _), Memory.read_write hm, if_neg]
    · simpa using h 0 (by simp)
    · intro k hk
      have := h (k + 1) (by simpa using hk)
      rwa [show i + 1 + k = i + (k + 1) by omega]

/-- Byte `k` of a fetched line stands at `HOFF + k` after it. -/
theorem lineWrite_read_at (c : Config) :
    ∀ (data : List Byte) (i : Nat) {m : Memory} (_ : m.wf) (k : Nat), k < data.length →
      (lineWrite c i data m).read .lineBuf (lineIndex c (i + k)) = data[k]?
  | [], _, _, _, k, hk => by simp at hk
  | b :: bs, i, m, hm, 0, _ => by
    rw [lineWrite, lineWrite_read_outside c bs (i + 1) (Memory.write_wf hm _ _ _)]
    · simp [Memory.read_write hm]
    · intro j hj he
      have := lineIndex_inj he
      omega
  | b :: bs, i, m, hm, k + 1, hk => by
    rw [lineWrite, show i + (k + 1) = (i + 1) + k by omega]
    rw [lineWrite_read_at c bs (i + 1) (Memory.write_wf hm _ _ _) k (by simpa using hk)]
    simp

theorem lineByte_eq (m : Memory) (i : Nat) : some (lineByte m i) = m.read .lineBuf i := by
  have h := m.read_lineBuf_isSome i
  unfold lineByte
  cases hr : m.read .lineBuf i with
  | none => simp [hr] at h
  | some b => rfl

@[simp] theorem lineBuffer_length (s : State) : (lineBuffer s).length = s.cfg.L := by simp [lineBuffer]

theorem lineBuffer_getElem? (s : State) {i : Nat} (h : i < s.cfg.L) : (lineBuffer s)[i]? = s.mem.read .lineBuf i := by
  simp [lineBuffer, h, lineByte_eq]

/-! ## Reading a line -/

@[simp] theorem memRead_length (s : State) (a n : Nat) : (memRead s a n).length = n := by simp [memRead]

/-- A byte of a read is the byte stored, where one is. -/
theorem memRead_getElem? (s : State) (a : Nat) {n i : Nat} {b : Byte} (hi : i < n)
    (hb : s.mem.read .storage (ringIndex s.cfg a i) = some b) : (memRead s a n)[i]? = some b := by
  simp [memRead, hi, readByte, hb]

/-- `RB_READ_LINE` either finds less than a line and changes nothing, or takes a line. -/
theorem ringReadLine_cases (s : State) :
    (s.avail < s.cfg.W ∧ ringReadLine s = (none, s)) ∨
    (s.cfg.W ≤ s.avail ∧ ringReadLine s = (some (memRead s s.rc s.cfg.W),
      { s with
        rc := advance s.cfg s.rc s.cfg.W
        avail := s.avail - s.cfg.W
        freeCount := s.freeCount + s.cfg.W })) := by
  unfold ringReadLine canRead
  by_cases h : s.cfg.W ≤ s.avail
  · right; simp [h]
  · left; simp [h]; omega

/-! ## Counting -/

/-- `RB_WRITE` accepts what R121 says. -/
theorem acceptedCount_cases (data : List Byte) (s : State) :
    (s.cfg.overflowPolicy = .drop ∧ acceptedCount data s = min data.length (s.cfg.C - s.avail)) ∨
    (s.cfg.overflowPolicy = .unguarded ∧ acceptedCount data s = data.length) := by
  unfold acceptedCount free
  cases h : s.cfg.overflowPolicy <;> simp

theorem acceptedCount_le (data : List Byte) (s : State) : acceptedCount data s ≤ data.length := by
  rcases acceptedCount_cases data s with ⟨-, h⟩ | ⟨-, h⟩ <;> omega

/-- `RB_WRITE`'s effect on the request flag (R121). -/
theorem ringWrite_reqOutstanding (data : List Byte) (s : State) :
    (ringWrite data s).reqOutstanding =
      if s.cfg.T < raise s.cfg s.avail (acceptedCount data s) then false else s.reqOutstanding := by
  simp only [ringWrite, clearRequestAboveMark_reqOutstanding, low]
  split
  · rename_i h; simp [h]
  · rename_i h; simp [Nat.le_of_not_lt h]

/-- The whole of `RB_WRITE`. -/
theorem ringWrite_eq (data : List Byte) (s : State) :
    ringWrite data s = { s with
      mem := memWrite s.cfg s.wc 0 (data.take (acceptedCount data s)) s.mem
      wc := advance s.cfg s.wc (acceptedCount data s)
      avail := raise s.cfg s.avail (acceptedCount data s)
      reqOutstanding :=
        if s.cfg.T < raise s.cfg s.avail (acceptedCount data s) then false else s.reqOutstanding } := by
  by_cases h : s.cfg.T < raise s.cfg s.avail (acceptedCount data s)
  · have h' : ¬raise s.cfg s.avail (acceptedCount data s) ≤ s.cfg.T := by omega
    simp [ringWrite, clearRequestAboveMark, low, h, h']
  · have h' : raise s.cfg s.avail (acceptedCount data s) ≤ s.cfg.T := by omega
    simp [ringWrite, clearRequestAboveMark, low, h, h']

/-! ## The flow check -/

/-- `FLOW_CHECK` emits a request, or nothing; it touches `tx` and the flag only. -/
theorem checkFlow_eq (s : State) :
    checkFlow s = { s with
      tx := if s.avail ≤ s.cfg.T ∧ ¬(s.cfg.reqDedup = true ∧ s.reqOutstanding = true)
        then s.tx ++ [s.cfg.cmdReq] else s.tx
      reqOutstanding := if s.avail ≤ s.cfg.T then s.cfg.reqDedup || s.reqOutstanding else false } := by
  unfold checkFlow low sendRequest
  by_cases h : s.avail ≤ s.cfg.T
  · cases hd : s.cfg.reqDedup <;> cases hr : s.reqOutstanding
    · simp [h, hr, emit]
    · simp [h, hr, emit]
    · simp [h, emit]
    · simp only [h, decide_true, if_true, Bool.and_self, and_self, not_true, and_false, if_false, Bool.or_self]
      rw [← hr]
  · simp [h]

/-! ## Fetching a line and ticking -/

/-- The three things `GET_LINE` can do: nothing for a repeated row, an attempt spent on an underrun, a line fetched. -/
theorem fetchLine_cases (row : Nat) (s : State) :
    (s.lastRow = some row ∧ fetchLine row s = (false, s)) ∨
    (s.lastRow ≠ some row ∧ s.avail < s.cfg.W ∧ fetchLine row s = (false, { s with lastRow := some row })) ∨
    (s.lastRow ≠ some row ∧ s.cfg.W ≤ s.avail ∧ fetchLine row s = (true, checkFlow { s with
      lastRow := some row
      rc := advance s.cfg s.rc s.cfg.W
      avail := s.avail - s.cfg.W
      freeCount := s.freeCount + s.cfg.W
      mem := lineWrite s.cfg 0 (memRead s s.rc s.cfg.W) s.mem
      processed := raise s.cfg s.processed s.cfg.W })) := by
  by_cases h : s.lastRow = some row
  · left; exact ⟨h, by simp [fetchLine, h]⟩
  · right
    rcases ringReadLine_cases { s with lastRow := some row } with ⟨hl, he⟩ | ⟨hl, he⟩
    · left; exact ⟨h, hl, by simp only [fetchLine, if_neg h, he]⟩
    · right; exact ⟨h, hl, by simp only [fetchLine, if_neg h, he]; rfl⟩

/-- The two things `LINE_TICK` can do: count a blanking scanline, or fetch and hand over. -/
theorem tickLine_cases (s : State) :
    (¬(s.cfg.vOffset ≤ s.scanline ∧ s.scanline < s.cfg.vOffset + s.cfg.N * s.cfg.H) ∧
      tickLine s = { s with scanline := nextScanline s.cfg s.scanline }) ∨
    ((s.cfg.vOffset ≤ s.scanline ∧ s.scanline < s.cfg.vOffset + s.cfg.N * s.cfg.H) ∧
      tickLine s = handOver (fetchLine (sourceRow s.cfg s.scanline)
        { s with scanline := nextScanline s.cfg s.scanline }).2) := by
  unfold tickLine visible
  by_cases h : s.cfg.vOffset ≤ s.scanline ∧ s.scanline < s.cfg.vOffset + s.cfg.N * s.cfg.H
  · right; exact ⟨h, by simp [h.1, h.2]⟩
  · left; refine ⟨h, ?_⟩
    have : (decide (s.cfg.vOffset ≤ s.scanline) && decide (s.scanline < s.cfg.vOffset + s.cfg.N * s.cfg.H)) = false := by
      simpa [Classical.not_and_iff_not_or_not] using h
    simp [this]

/-! ## Received blocks -/

/-- What a received block can do: nothing, a flush with a new `st`, a completed frame, or a payload written. -/
theorem receiveBlock_cases (data : List Byte) (s : State) :
    receiveBlock data s = s ∨
    (∃ b, data = [b] ∧ (b = s.cfg.cmdSof ∨ b = s.cfg.cmdData ∧ s.st ≠ .receiving) ∧
      receiveBlock data s = flushTo .receiving s) ∨
    (data = [s.cfg.cmdEnd] ∧ s.st ≠ .receiving ∧ receiveBlock data s = flushTo .complete s) ∨
    (data = [s.cfg.cmdEnd] ∧ s.st = .receiving ∧ receiveBlock data s =
      sendAck (countFrame (flushTo .complete s))) ∨
    (2 ≤ data.length ∧ s.st = .receiving ∧ receiveBlock data s = acceptPayload data s) := by
  match data with
  | [] => left; rfl
  | [b] =>
    simp only [receiveBlock, receiveCommand]
    by_cases h1 : b = s.cfg.cmdSof
    · right; left; exact ⟨b, rfl, .inl h1, by rw [if_pos h1]; rfl⟩
    by_cases h2 : b = s.cfg.cmdData
    · cases hst : s.st
      · right; left; exact ⟨b, rfl, .inr ⟨h2, by simp⟩, by rw [if_neg h1, if_pos h2, dataMarker, hst]⟩
      · left; rw [if_neg h1, if_pos h2, dataMarker, hst]
      · right; left; exact ⟨b, rfl, .inr ⟨h2, by simp⟩, by rw [if_neg h1, if_pos h2, dataMarker, hst]⟩
    by_cases h3 : b = s.cfg.cmdEnd
    · cases hst : s.st
      · right; right; left; exact ⟨by rw [h3], by simp, by rw [if_neg h1, if_neg h2, if_pos h3, endOfFrame, hst]⟩
      · right; right; right; left; exact ⟨by rw [h3], rfl, by rw [if_neg h1, if_neg h2, if_pos h3, endOfFrame, hst]⟩
      · right; right; left; exact ⟨by rw [h3], by simp, by rw [if_neg h1, if_neg h2, if_pos h3, endOfFrame, hst]⟩
    · left; rw [if_neg h1, if_neg h2, if_neg h3]
  | b₀ :: b₁ :: rest =>
    simp only [receiveBlock, payload]
    cases hst : s.st
    · left; rfl
    · right; right; right; right; exact ⟨by simp, rfl, rfl⟩
    · left; rfl

/-! ## A step -/

/-- `RX_BLOCK` does what the classified block does (R141). -/
theorem exec_decodeBlock (data : List Byte) (s : State) :
    exec (.rxBlock data) s = exec (decodeBlock s.cfg data) s := by
  match data with
  | [] => rfl
  | b₀ :: b₁ :: rest => rfl
  | [b] =>
    show answer .none (receiveCommand b s) = exec (decodeCommand s.cfg b) s
    unfold receiveCommand decodeCommand
    by_cases h1 : b = s.cfg.cmdSof
    · rw [if_pos h1, if_pos h1]; rfl
    rw [if_neg h1, if_neg h1]
    by_cases h2 : b = s.cfg.cmdData
    · rw [if_pos h2, if_pos h2]; rfl
    rw [if_neg h2, if_neg h2]
    by_cases h3 : b = s.cfg.cmdEnd
    · rw [if_pos h3, if_pos h3]; rfl
    rw [if_neg h3, if_neg h3]
    split <;> [rfl; (split <;> rfl)]

/-- What a step can do, said once: hold the state with nothing pending, or run the operation of the oldest
transaction. Everything a next state can be is in these eight cases. -/
theorem step_cases {s t : State} (h : step s = .next t) :
    (s.inputs = [] ∧ t = s) ∨
    ∃ tr rest, s.inputs = tr :: rest ∧
      ((tr = .init ∧ t = setResult .none (initialise s.dequeue)) ∨
       (∃ data, tr = .rxBlock data ∧ t = setResult .none (receiveBlock data s.dequeue)) ∨
       (tr = .lineTick ∧ t = setResult .none (tickLine s.dequeue)) ∨
       (tr = .frameTick ∧ t = setResult .none (tickFrame s.dequeue)) ∨
       (∃ row, row < s.cfg.scanMod ∧ tr = .getLine row ∧
         t = setResult (.bit (fetchLine row s.dequeue).1) (fetchLine row s.dequeue).2) ∨
       (tr = .pollTick ∧ t = setResult .none (checkFlow s.dequeue)) ∨
       (tr = .availLines ∧ t = setResult (.count (wholeLines s)) s.dequeue)) := by
  unfold step fetch at h
  cases hi : s.inputs with
  | nil => left; rw [hi] at h; exact ⟨rfl, by cases h; rfl⟩
  | cons tr rest =>
    right
    refine ⟨tr, rest, rfl, ?_⟩
    rw [hi] at h
    cases tr with
    | init => left; exact ⟨rfl, by cases h; rfl⟩
    | rxBlock data =>
      right; left
      refine ⟨data, rfl, ?_⟩
      have hd : exec (decodeBlock s.cfg data) s.dequeue = .next t := h
      rw [← State.dequeue_cfg s, ← exec_decodeBlock data s.dequeue] at hd
      exact answer_eq_next_iff.1 hd
    | lineTick => right; right; left; exact ⟨rfl, by cases h; rfl⟩
    | frameTick => right; right; right; left; exact ⟨rfl, by cases h; rfl⟩
    | getLine row =>
      right; right; right; right; left
      by_cases hr : row < s.cfg.scanMod
      · simp only [List.head?_cons, Option.map_some, decodeTransaction, if_pos hr] at h
        exact ⟨row, hr, rfl, by cases h; rfl⟩
      · simp only [List.head?_cons, Option.map_some, decodeTransaction, if_neg hr] at h
        cases h
    | pollTick => right; right; right; right; right; left; exact ⟨rfl, by cases h; rfl⟩
    | availLines => right; right; right; right; right; right; exact ⟨rfl, by cases h; rfl⟩

end Sys2Proof.Machine
end

