-- ==== Sys2Proof/Laws/PerInstr.lean ====
section
/-! SUPPORT. One statement for each operation of the set: what it is encoded as decodes to it. -/

namespace Sys2Proof.Laws.RoundTrip

/-- Whatever the configuration, a well-formed operation that has an encoding is what its encoding decodes to; the block
of an `RX_BLOCK` decodes to the operation it is classified as (R141). -/
def Statement (i : Instr) : Prop :=
  ∀ (c : Config) (e : Encoded), i.wellFormed c = true → encode c i = some e →
    decode c e = .ok i ∨ ∃ data, i = .rxBlock data ∧ decode c e = .ok (decodeBlock c data)

/-- The bytes of the five commands decode to the five commands (R93). -/
theorem decodeCommand_commands (c : Config) :
    decodeCommand c c.cmdSof = .cmdSof ∧ decodeCommand c c.cmdData = .cmdData ∧ decodeCommand c c.cmdEnd = .cmdEnd ∧
      decodeCommand c c.cmdReq = .cmdReq ∧ decodeCommand c c.cmdIdle = .cmdIdle := by
  obtain ⟨h1, h2, h3, h4, h5, h6, h7, h8, h9, h10⟩ := c.commands_distinct
  refine ⟨?_, ?_, ?_, ?_, ?_⟩ <;> unfold decodeCommand
  · rw [if_pos rfl]
  · rw [if_neg h4, if_pos rfl]
  · rw [if_neg h7, if_neg h1.symm, if_pos rfl]
  · rw [if_neg h9, if_neg h2.symm, if_neg h5.symm, if_pos rfl]
  · rw [if_neg h10, if_neg h3.symm, if_neg h6.symm, if_neg h8.symm, if_pos rfl]

/-- A byte that is no command parameter decodes to the unknown code (R150). -/
theorem decodeCommand_unknown (c : Config) {b : Byte} (h : b ∉ c.commands) : decodeCommand c b = .cmdUnknown b := by
  simp only [Params.commands, List.mem_cons, List.not_mem_nil, or_false, not_or] at h
  obtain ⟨h1, h2, h3, h4, h5⟩ := h
  unfold decodeCommand
  rw [if_neg h5, if_neg h1, if_neg h2, if_neg h3, if_neg h4]

/-- A block of two or more bytes is payload, whatever its bytes (R90). -/
theorem decodeBlock_payload (c : Config) : ∀ {data : List Byte}, 2 ≤ data.length → decodeBlock c data = .rxPayload data
  | [], h => by simp at h
  | [_], h => by simp at h
  | _ :: _ :: _, _ => rfl

theorem cmdData : Statement .cmdData := by
  intro c e _ he; cases he; left
  exact congrArg Except.ok (decodeCommand_commands c).2.1

theorem cmdEnd : Statement .cmdEnd := by
  intro c e _ he; cases he; left
  exact congrArg Except.ok (decodeCommand_commands c).2.2.1

theorem cmdReq : Statement .cmdReq := by
  intro c e _ he; cases he; left
  exact congrArg Except.ok (decodeCommand_commands c).2.2.2.1

theorem cmdIdle : Statement .cmdIdle := by
  intro c e _ he; cases he; left
  exact congrArg Except.ok (decodeCommand_commands c).2.2.2.2

theorem cmdSof : Statement .cmdSof := by
  intro c e _ he; cases he; left
  exact congrArg Except.ok (decodeCommand_commands c).1

theorem cmdUnknown (code : Byte) : Statement (.cmdUnknown code) := by
  intro c e hw he; cases he; left
  refine congrArg Except.ok (decodeCommand_unknown c ?_)
  simpa [Instr.wellFormed] using hw

theorem rxEmpty : Statement .rxEmpty := by intro c e _ he; cases he; left; rfl

theorem rxPayload (data : List Byte) : Statement (.rxPayload data) := by
  intro c e hw he; cases he; left
  exact congrArg Except.ok (decodeBlock_payload c (by simpa [Instr.wellFormed] using hw))

theorem txReq : Statement .txReq := by
  intro c e _ he; cases he; left
  show decodeTx c c.cmdReq = _
  rw [decodeTx, if_pos rfl]

theorem txAck : Statement .txAck := by
  intro c e _ he; cases he; left
  show decodeTx c c.ackByte = _
  rw [decodeTx, if_neg c.ackByte_ne_cmdReq, if_pos rfl]

theorem init : Statement .init := by intro c e _ he; cases he; left; rfl

theorem rxBlock (data : List Byte) : Statement (.rxBlock data) := by
  intro c e _ he; cases he; right; exact ⟨data, rfl, rfl⟩

theorem lineTick : Statement .lineTick := by intro c e _ he; cases he; left; rfl

theorem frameTick : Statement .frameTick := by intro c e _ he; cases he; left; rfl

theorem getLine (row : Nat) : Statement (.getLine row) := by
  intro c e hw he; cases he; left
  show decodeTransaction c (.getLine row) = _
  rw [decodeTransaction, if_pos (by simpa [Instr.wellFormed] using hw)]

theorem flowCheck : Statement .flowCheck := by intro c e _ he; cases he; left; rfl

theorem getAvailableLines : Statement .getAvailableLines := by intro c e _ he; cases he; left; rfl

theorem rbWrite (data : List Byte) : Statement (.rbWrite data) := by intro c e _ he; cases he

theorem rbReadLine : Statement .rbReadLine := by intro c e _ he; cases he

theorem rbFlush : Statement .rbFlush := by intro c e _ he; cases he

theorem txEmit (b : Byte) : Statement (.txEmit b) := by intro c e _ he; cases he

end Sys2Proof.Laws.RoundTrip
end

