-- ==== Sys2Proof/Laws/Step.lean ====
section
/-! SUPPORT. The case analysis of a step, packaged once for properties that every step keeps. -/

namespace Sys2Proof.Machine

/-- The row that a visible line tick asks for fits `SCAN_BITS` bits (R9, R189). -/
theorem sourceRow_lt (c : Config) {pos : Nat} (h : pos < c.vOffset + c.N * c.H) : sourceRow c pos < c.scanMod := by
  have := c.window_le_scanMod
  have : sourceRow c pos ≤ pos := le_trans (Nat.div_le_self _ _) (Nat.sub_le _ _)
  omega

/-- A property that every shared operation keeps is kept by every step. The payload operation is asked about only for
the block that is next, so that a premise on that block can be used. -/
theorem step_keeps {P : State → Prop} {s t : State} (h : step s = .next t) (hP : P s)
    (result : ∀ u r, P u → P (setResult r u))
    (dequeue : ∀ u : State, P u → P u.dequeue)
    (reset : ∀ u, P u → P (initialise u))
    (flush : ∀ u st, P u → P (flushTo st u))
    (count : ∀ u, P u → P (countFrame u))
    (ack : ∀ u, P u → P (sendAck u))
    (payload : ∀ data, P s.dequeue → 2 ≤ data.length → s.st = .receiving → s.inputs.head? = some (.rxBlock data) →
      P (acceptPayload data s.dequeue))
    (flow : ∀ u, P u → P (checkFlow u))
    (frameTick : ∀ u, P u → P (tickFrame u))
    (out : ∀ u, P u → P (handOver u))
    (attempt : ∀ u row, row < u.cfg.scanMod → P u → P { u with lastRow := some row })
    (position : ∀ u, P u → P { u with scanline := nextScanline u.cfg u.scanline })
    (fetched : ∀ u row, row < u.cfg.scanMod → P u → u.cfg.W ≤ u.avail → P { u with
      lastRow := some row
      rc := advance u.cfg u.rc u.cfg.W
      avail := u.avail - u.cfg.W
      freeCount := u.freeCount + u.cfg.W
      mem := lineWrite u.cfg 0 (memRead u u.rc u.cfg.W) u.mem
      processed := raise u.cfg u.processed u.cfg.W }) : P t := by
  have hFetch : ∀ (u : State) row, row < u.cfg.scanMod → P u → P (fetchLine row u).2 := by
    intro u row hr hp
    rcases fetchLine_cases row u with ⟨_, he⟩ | ⟨_, _, he⟩ | ⟨_, hw, he⟩ <;> rw [he]
    · exact hp
    · exact attempt u row hr hp
    · exact flow _ (fetched u row hr hp hw)
  have hD := dequeue s hP
  rcases step_cases h with ⟨_, rfl⟩ | ⟨tr, rest, hi, h⟩
  · exact hP
  rcases h with ⟨rfl, rfl⟩ | ⟨data, rfl, rfl⟩ | ⟨rfl, rfl⟩ | ⟨rfl, rfl⟩ | ⟨row, hr, rfl, rfl⟩ | ⟨rfl, rfl⟩ | ⟨rfl, rfl⟩
  · exact result _ _ (reset _ hD)
  · apply result
    rcases receiveBlock_cases data s.dequeue with he | ⟨b, _, _, he⟩ | ⟨_, _, he⟩ | ⟨_, _, he⟩ | ⟨hl, hst, he⟩ <;> rw [he]
    · exact hD
    · exact flush _ _ hD
    · exact flush _ _ hD
    · exact ack _ (count _ (flush _ _ hD))
    · exact payload _ hD hl hst (by rw [hi]; rfl)
  · apply result
    rcases tickLine_cases s.dequeue with ⟨_, he⟩ | ⟨hv, he⟩ <;> rw [he]
    · exact position _ hD
    · exact out _ (hFetch _ _ (sourceRow_lt _ hv.2) (position _ hD))
  · exact result _ _ (frameTick _ hD)
  · exact result _ _ (hFetch _ _ hr hD)
  · exact result _ _ (flow _ hD)
  · exact result _ _ hD

/-- A fetch leaves the configuration alone (R33). -/
theorem fetchLine_cfg (row : Nat) (s : State) : (fetchLine row s).2.cfg = s.cfg := by
  rcases fetchLine_cases row s with ⟨_, he⟩ | ⟨_, _, he⟩ | ⟨_, _, he⟩ <;> rw [he]
  rw [checkFlow_cfg]

/-! ## Runs -/

/-- A run of one more step, from a state whose step answers a next state. -/
theorem run_succ (M : Host.Core) {s u : M.State} (k : Nat) (h : M.step s = .next u) : M.run (k + 1) s = M.run k u := by
  rw [Host.Core.run, h]

/-- A run of one more step that answers a next state is a step and a run. -/
theorem run_succ_cases (M : Host.Core) {s t : M.State} {k : Nat} (h : M.run (k + 1) s = .next t) :
    ∃ u, M.step s = .next u ∧ M.run k u = .next t := by
  rw [Host.Core.run] at h
  split at h
  · exact ⟨_, ‹_›, h⟩
  · cases h
  · cases h

/-- `run_succ` for this machine, in the words of `step`. -/
theorem core_run_succ {s u : State} (k : Nat) (h : step s = .next u) :
    Sys2Proof.core.run (k + 1) s = Sys2Proof.core.run k u := run_succ Sys2Proof.core k h

/-- `run_succ_cases` for this machine, in the words of `step`. -/
theorem core_run_succ_cases {s t : State} {k : Nat} (h : Sys2Proof.core.run (k + 1) s = Host.Outcome.next t) :
    ∃ u, step s = .next u ∧ Sys2Proof.core.run k u = Host.Outcome.next t := run_succ_cases Sys2Proof.core h

end Sys2Proof.Machine
end

