-- ==== Sys2Proof/Tests/Slice0.lean ====
section
/-! SUPPORT. The model's own tests. Expected values are those of the vectors of spec/95_test_vectors.md (named in each
comment) or of the encoding tables R91 to R97, never the model's own answers. The last part shows, for every statement
of Certificates/Slice0/Obligations.lean that has a premise, states and operands that meet it. -/

namespace Sys2Proof.Tests

open Sys2Proof.Machine

/-! ## Helpers -/

/-- The value of `f` in the next state; `none` if there is none. -/
def after {α : Type} (o : Host.Outcome State Fault Refusal) (f : State → α) : Option α :=
  match o with
  | .next t => some (f t)
  | .fault _ => none
  | .refused _ => none

/-- Whether the outcome is the refusal given. -/
def refuses (o : Host.Outcome State Fault Refusal) (r : Refusal) : Bool :=
  match o with
  | .next _ => false
  | .fault _ => false
  | .refused q => decide (q = r)

def cfgUnguarded : Config := { toParams := { Params.small with overflowPolicy := .unguarded }, valid := by decide }
def cfgDedup : Config := { toParams := { Params.small with reqDedup := true }, valid := by decide }
def cfgDedupLow : Config :=
  { toParams := { Params.small with reqDedup := true, lowWaterLines := 0 }, valid := by decide }
def cfgAck : Config := { toParams := { Params.small with ackEnable := true }, valid := by decide }
def cfgAckIdle : Config := { toParams := { Params.small with ackEnable := true, ackCode := .cmdIdle }, valid := by decide }

/-- The reset state of a configuration. -/
def fresh (c : Config) : State := { State.reset with cfg := c }

/-- A state in reception with the given bytes unread from index 0 on. -/
def filled (c : Config) (bytes : List Byte) : State :=
  { fresh c with
    st := .receiving, mem := memWrite c 0 0 bytes Memory.empty, wc := bytes.length % c.C, avail := bytes.length,
    received := bytes.length }

/-- Eight bytes, a full ring of `CFG_SMALL`. -/
def eight : List Byte := [0x10, 0x11, 0x12, 0x13, 0x14, 0x15, 0x16, 0x17]

/-- The contents of `storage`. -/
def stored (s : State) : List (Option Byte) := (List.range s.cfg.C).map (s.mem.read .storage)

/-- The start state of vector V2. -/
def straddling : State :=
  { filled Config.small [0xA0, 0xA1, 0xA2, 0xA3, 0xB0, 0xB1] with rc := 4, avail := 2 }

/-- The start state of vectors V5 and V7. -/
def nearlyFull (c : Config) : State := filled c [0x50, 0x51, 0x52, 0x53, 0x54, 0x55]

/-! ## Well-formedness: each check refuses an ill-formed term -/

theorem test_wf_unknown_is_no_command :
    (Instr.cmdUnknown 0x03).wellFormed Config.ref = false ∧ (Instr.cmdUnknown 0x77).wellFormed Config.ref = true := by
  decide

theorem test_wf_payload_has_two_bytes :
    (Instr.rxPayload [0x41]).wellFormed Config.ref = false ∧ (Instr.rxPayload []).wellFormed Config.ref = false ∧
      (Instr.rxPayload [0x41, 0x42]).wellFormed Config.ref = true := by decide

theorem test_wf_row_fits_its_wires :
    (Instr.getLine 65536).wellFormed Config.ref = false ∧ (Instr.getLine 65535).wellFormed Config.ref = true ∧
      (Transaction.getLine 65536).wellFormed Config.ref = false := by decide

/-- Each constraint of R9, broken alone. -/
theorem test_wf_params :
    ({ Params.small with W := 0 }).wf = false ∧ ({ Params.small with capLines := 0 }).wf = false ∧
      ({ Params.small with lowWaterLines := 3 }).wf = false ∧ ({ Params.small with H := 0 }).wf = false ∧
      ({ Params.small with N := 0 }).wf = false ∧ ({ Params.small with scanBits := 2 }).wf = false ∧
      ({ Params.small with L := 5 }).wf = false ∧ ({ Params.small with cmdSof := 0x01 }).wf = false ∧
      ({ Params.small with cntBits := 3 }).wf = false ∧ ({ Params.small with H := 17, cntBits := 6 }).wf = false := by
  decide

/-! ## Decoding: words written out from R91 to R94, bits 7..0 the first byte -/

theorem test_decode_commands :
    decodeTableWord 8 0b00000001 = some .cmdData ∧ decodeTableWord 8 0b00000010 = some .cmdEnd ∧
      decodeTableWord 8 0b00000011 = some .cmdReq ∧ decodeTableWord 8 0b00000100 = some .cmdIdle ∧
      decodeTableWord 8 0b00000101 = some .cmdSof := by decide

theorem test_decode_unknown :
    decodeTableWord 8 0b00000000 = some (.cmdUnknown 0x00) ∧ decodeTableWord 8 0b00000110 = some (.cmdUnknown 0x06) ∧
      decodeTableWord 8 0b11111111 = some (.cmdUnknown 0xFF) := by decide

/-- A command byte with any of its upper bits set is another byte: all 8 bits are compared (R93). -/
theorem test_decode_compares_all_bits :
    decodeTableWord 8 0b10000001 = some (.cmdUnknown 0x81) ∧ decodeTableWord 8 0b00010101 = some (.cmdUnknown 0x15) := by
  decide

theorem test_decode_empty : decodeTableWord 0 0 = some .rxEmpty := by decide

/-- Vector V21: two command bytes in one block are payload. -/
theorem test_decode_payload :
    decodeTableWord 16 0b0000000100000001 = some (.rxPayload [0x01, 0x01]) ∧
      decodeTableWord 24 0x130201 = some (.rxPayload [0x01, 0x02, 0x13]) := by decide

theorem test_decode_ports :
    decodeTransaction Config.ref .init = .ok .init ∧ decodeTransaction Config.ref .lineTick = .ok .lineTick ∧
      decodeTransaction Config.ref .frameTick = .ok .frameTick ∧
      decodeTransaction Config.ref (.getLine 7) = .ok (.getLine 7) ∧
      decodeTransaction Config.ref .pollTick = .ok .flowCheck ∧
      decodeTransaction Config.ref .availLines = .ok .getAvailableLines := by decide

theorem test_decode_row_too_wide :
    decodeTransaction Config.ref (.getLine 65536) = .error (.rowTooWide 65536) := by decide

theorem test_decode_transmitted :
    decodeTx Config.ref 0x03 = .ok .txReq ∧ decodeTx Config.ref 0x02 = .ok .txAck ∧ decodeTx cfgAckIdle 0x04 = .ok .txAck ∧
      decodeTx Config.ref 0x04 = .error (.notATransmitCode 0x04) := by decide

theorem test_encode :
    encode Config.ref .cmdSof = some (.port (.rxBlock [0x05])) ∧ encode Config.ref .txReq = some (.tx 0x03) ∧
      encode Config.ref .txAck = some (.tx 0x02) ∧ encode Config.ref .flowCheck = some (.port .pollTick) ∧
      encode Config.ref (.rxBlock eight) = some (.port (.rxBlock eight)) ∧ encode Config.ref (.txEmit 0x03) = none ∧
      encode Config.ref .rbFlush = none ∧ encode Config.ref .rbReadLine = none ∧ encode Config.ref (.rbWrite eight) = none := by
  decide

/-- The word placed by the host is the one the next step runs. -/
theorem test_withFetchWord :
    after (step (State.reset.withFetchWord 8 0x01)) (fun t => (t.st, t.inputs)) = some (.receiving, []) := by decide

/-! ## One step of each operation -/

/-- Vectors V14 and V15. -/
theorem test_cmdData :
    after (exec .cmdData (fresh Config.small)) (·.st) = some .receiving ∧
      after (exec .cmdData (filled Config.small [0xAA, 0xBB])) (fun t => (t.st, t.avail, t.received, t.wc)) =
        some (.receiving, 2, 2, 2) := by decide

/-- Vector V17. -/
theorem test_cmdSof :
    after (exec .cmdSof (filled Config.small [0x70, 0x71, 0x72]))
      (fun t => (t.st, t.wc, t.avail, t.received, t.frameCounter)) = some (.receiving, 0, 0, 0, 0) ∧
    after (exec .cmdSof (filled Config.small [0x70, 0x71, 0x72])) (fun t => (stored t).take 3) =
      some [some 0x70, some 0x71, some 0x72] := by decide

/-- Vectors V13, V18 and S4. -/
theorem test_cmdEnd_in_reception :
    after (exec .cmdEnd { filled Config.small eight with rc := 4, avail := 4, processed := 4 })
      (fun t => ((t.st, t.wc, t.rc, t.avail), t.received, t.processed, t.frameCounter, t.tx)) =
        some ((.complete, 0, 0, 0), 0, 0, 1, []) ∧
    after (exec .cmdEnd (filled Config.small eight)) stored = some (eight.map some) := by decide

/-- Vectors V19 and V26. -/
theorem test_cmdEnd_counts_and_acknowledges_only_in_reception :
    after (exec .cmdEnd (fresh cfgAck)) (fun t => (t.st, t.frameCounter, t.tx)) = some (.complete, 0, []) ∧
      after (exec .cmdEnd (filled cfgAck [])) (fun t => (t.frameCounter, t.tx)) = some (1, [0x02]) ∧
      after (exec .cmdEnd (filled cfgAckIdle [])) (·.tx) = some [0x04] := by decide

/-- Vector V20. -/
theorem test_ignored_commands :
    after (exec .cmdReq (filled Config.small [0x10, 0x11, 0x12])) id = some (filled Config.small [0x10, 0x11, 0x12]) ∧
      after (exec .cmdIdle (filled Config.small [0x10, 0x11, 0x12])) id = some (filled Config.small [0x10, 0x11, 0x12]) ∧
      after (exec (.cmdUnknown 0x77) (filled Config.small [0x10, 0x11, 0x12])) id =
        some (filled Config.small [0x10, 0x11, 0x12]) ∧
      after (exec .rxEmpty (filled Config.small [0x10, 0x11, 0x12])) id = some (filled Config.small [0x10, 0x11, 0x12]) := by
  decide

/-- Vector V2: a write that straddles the end. -/
theorem test_rxPayload :
    after (exec (.rxPayload [0xB2, 0xB3, 0xC0, 0xC1, 0xC2, 0xC3]) straddling) (fun t => (stored t, t.wc, t.avail)) =
      some ([0xC0, 0xC1, 0xC2, 0xC3, 0xB0, 0xB1, 0xB2, 0xB3].map some, 4, 8) := by decide

/-- Vector V21. -/
theorem test_rxPayload_discarded :
    after (exec (.rxPayload [0x41, 0x42]) (fresh Config.small)) id = some (fresh Config.small) := by decide

/-- Vectors V16 and V21 by `RX_BLOCK`. -/
theorem test_rxBlock :
    after (exec (.rxBlock [0x01]) { fresh Config.small with st := .complete }) (·.st) = some .receiving ∧
      after (exec (.rxBlock [0x01, 0x01]) (fresh Config.small)) (·.st) = some .idle := by decide

/-- Vectors V5 and V7. -/
theorem test_rbWrite_overrun :
    after (exec (.rbWrite [0x60, 0x61, 0x62, 0x63, 0x64]) (nearlyFull Config.small))
        (fun t => (stored t, t.wc, t.avail, t.result)) =
      some ([0x50, 0x51, 0x52, 0x53, 0x54, 0x55, 0x60, 0x61].map some, 0, 8, .accepted 2) ∧
    after (exec (.rbWrite [0x60, 0x61, 0x62, 0x63, 0x64]) (nearlyFull cfgUnguarded))
        (fun t => (stored t, t.wc, t.avail, t.result)) =
      some ([0x62, 0x63, 0x64, 0x53, 0x54, 0x55, 0x60, 0x61].map some, 3, 11, .accepted 5) := by decide

/-- Vectors V8 and V9: one write longer than the ring. -/
theorem test_rbWrite_longer_than_the_ring :
    after (exec (.rbWrite [0, 1, 2, 3, 4, 5, 6, 7, 8, 9]) (fresh cfgUnguarded)) (fun t => (stored t, t.wc, t.avail)) =
      some ([8, 9, 2, 3, 4, 5, 6, 7].map some, 2, 10) ∧
    after (exec (.rbWrite [0, 1, 2, 3, 4, 5, 6, 7, 8, 9]) (fresh Config.small)) (fun t => (stored t, t.wc, t.avail)) =
      some ([0, 1, 2, 3, 4, 5, 6, 7].map some, 0, 8) := by decide

/-- Vector V11's read, and vector V12: a read at `C - W` brings the cursor back to 0. -/
theorem test_rbReadLine :
    after (exec .rbReadLine (filled Config.small [0x10, 0x11, 0x12, 0x13])) (fun t => (t.result, t.rc, t.avail)) =
      some (.line (some [0x10, 0x11, 0x12, 0x13]), 4, 0) ∧
    after (exec .rbReadLine { filled Config.small eight with rc := 4 }) (fun t => (t.result, t.rc)) =
      some (.line (some [0x14, 0x15, 0x16, 0x17]), 0) := by decide

/-- Vector S3: less than a line. -/
theorem test_rbReadLine_short :
    after (exec .rbReadLine (filled Config.small [0x10, 0x11, 0x12])) (fun t => (t.result, t.rc, t.avail)) =
      some (.line none, 0, 3) := by decide

theorem test_rbFlush :
    after (exec .rbFlush { filled Config.small eight with processed := 4, reqOutstanding := true, frameCounter := 3 })
      (fun t => ((t.wc, t.avail, t.received, t.processed), t.reqOutstanding, t.frameCounter, t.st)) =
        some ((0, 0, 0, 0), false, 3, .receiving) := by decide

theorem test_txEmit : after (exec (.txEmit 0x41) { fresh Config.small with tx := [0x03] }) (·.tx) = some [0x03, 0x41] := by
  decide

theorem test_txReq : after (exec .txReq (fresh cfgDedup)) (fun t => (t.tx, t.reqOutstanding)) = some ([0x03], true) := by
  decide

theorem test_txAck :
    after (exec .txAck (fresh cfgAckIdle)) (·.tx) = some [0x04] ∧ after (exec .txAck (fresh Config.small)) (·.tx) = some [] := by
  decide

/-- Vector V23: at the mark a request, above it none. -/
theorem test_flowCheck :
    after (exec .flowCheck (filled Config.small [0x10, 0x11, 0x12, 0x13])) (·.tx) = some [0x03] ∧
      after (exec .flowCheck (filled Config.small [0x10, 0x11, 0x12, 0x13, 0x20])) (·.tx) = some [] := by decide

/-- Program P4: the flag holds a second request back. -/
theorem test_flowCheck_dedup :
    after (exec .flowCheck { fresh cfgDedup with tx := [0x03], reqOutstanding := true }) (·.tx) = some [0x03] := by decide

/-- Vectors V11 and V27. -/
theorem test_getLine :
    after (exec (.getLine 0) (filled Config.small [0x10, 0x11, 0x12, 0x13]))
      (fun t => ((t.result, t.rc, t.avail), t.processed, t.tx, lineBuffer t)) =
        some ((.bit true, 4, 0), 4, [0x03], [0, 0, 0x10, 0x11, 0x12, 0x13, 0, 0]) := by decide

/-- Vectors V10 and V28: an underrun spends the attempt, and a repeat makes none. -/
theorem test_getLine_nothing :
    after (exec (.getLine 0) (filled Config.small [0x10, 0x11, 0x12]))
      (fun t => (t.result, t.lastRow, t.avail, t.tx)) = some (.bit false, some 0, 3, []) ∧
    after (exec (.getLine 7) { filled Config.small [0x10, 0x11, 0x12, 0x13] with lastRow := some 7 })
      (fun t => (t.result, t.rc, t.avail)) = some (.bit false, 0, 4) := by decide

/-- Program P1, rows 5 and 6. -/
theorem test_lineTick :
    after (exec .lineTick (filled Config.small eight)) (fun t => (t.scanline, t.out)) = some (1, []) ∧
      after (exec .lineTick { filled Config.small eight with scanline := 1 })
        (fun t => (t.scanline, t.lastRow, t.rc, t.avail, t.out)) =
          some (2, some 0, 4, 4, [[0, 0, 0x10, 0x11, 0x12, 0x13, 0, 0]]) := by decide

/-- Vector V31: the position wraps after 65536 line ticks. -/
theorem test_lineTick_wraps :
    after (exec .lineTick { fresh Config.small with scanline := 65535 }) (·.scanline) = some 0 := by decide

/-- Vector V30. -/
theorem test_frameTick :
    after (exec .frameTick { filled Config.small eight with scanline := 3, lastRow := some 0 })
      (fun t => (t.scanline, t.lastRow, t.avail)) = some (0, none, 8) := by decide

/-- Vector V34: `INIT` in mid-run recalls nothing that was sent. -/
theorem test_init :
    after (exec .init { filled Config.small eight with tx := [0x03], scanline := 2, lastRow := some 0 }) id =
      some { fresh Config.small with tx := [0x03] } := by decide

/-- Vector V35. -/
theorem test_getAvailableLines :
    after (exec .getAvailableLines (fresh Config.small)) (·.result) = some (.count 0) ∧
      after (exec .getAvailableLines (filled Config.small [1, 2, 3])) (·.result) = some (.count 0) ∧
      after (exec .getAvailableLines (nearlyFull Config.small)) (·.result) = some (.count 1) ∧
      after (exec .getAvailableLines (filled Config.small eight)) (·.result) = some (.count 2) ∧
      after (exec .getAvailableLines { filled cfgUnguarded eight with avail := 12 }) (·.result) = some (.count 3) := by
  decide

/-! ## Memory, the arbiter, the trace notation -/

/-- A write of what an unlisted index reads as removes the entry. -/
theorem test_memory_canonical :
    (Memory.empty.write .lineBuf 3 0x41).write .lineBuf 3 0x00 = Memory.empty ∧
      (filled Config.small eight).mem.wf ∧ ¬Memory.wf { storage := [(1, 0), (0, 0)], lineBuf := [] } ∧
      ¬Memory.wf { storage := [], lineBuf := [(0, 0x00)] } := by decide

/-- R228: frame tick before line tick, consumer before producer, poll tick last. -/
theorem test_arbitrate :
    arbitrate [.pollTick, .rxBlock [0x01], .lineTick, .frameTick] = [.frameTick, .lineTick, .rxBlock [0x01], .pollTick] := by
  decide

/-- R111: a remainder of one byte is merged into the block before it. -/
theorem test_frameTrace :
    frameTrace Config.small [1, 2, 3, 4, 5] 2 = [.rxBlock [0x01], .rxBlock [1, 2], .rxBlock [3, 4, 5], .rxBlock [0x02]] := by
  decide

/-- R108: twelve bytes make a frame of `CFG_SMALL`; a lost byte or a block of one byte does not. -/
theorem test_wellFormedFrame :
    hostKeepsFraming Config.small [[0x05], [0x01], eight, [0x01], [1, 2, 3, 4], [0x02]] = true ∧
      hostKeepsFraming Config.small [[0x01], eight, [1, 2, 3], [0x02]] = false ∧
      hostKeepsFraming Config.small [[0x01], eight, [1, 2, 3], [4], [0x02]] = false := by decide

/-- R111: `RASTER` of `CFG_SMALL` is a frame tick and seven line ticks. -/
theorem test_raster : rasterFrame Config.small = .frameTick :: List.replicate 7 .lineTick := by decide

/-! ## Witnesses: states and operands that meet the premises of the statements -/

/-- A state with transactions pending. -/
def pending (ts : List Transaction) (s : State) : State := { s with inputs := ts }

/-- The last clause: an operation other than `INIT`, and an index on each side of the image window. -/
theorem witness_InitAloneResetsAllAndRecallsNothing :
    (∃ t, exec .init (filled Config.small eight) = .next t) ∧ Instr.cmdEnd ≠ .init ∧
      (∃ t, exec .cmdEnd (filled Config.small eight) = .next t) ∧ (filled Config.small eight).mem.wf ∧
      1 < Config.small.hOff ∧ Config.small.hOff + Config.small.W ≤ 6 :=
  ⟨⟨_, rfl⟩, by decide, ⟨_, rfl⟩, by decide, by decide, by decide⟩

/-- `CmdDataStartsReceptionOutsideReceiving`, `CmdEndFlushesAndCountsAFrameInReception`: each clause's state. -/
theorem witness_st_clauses :
    (fresh Config.small).st ≠ .receiving ∧ { fresh Config.small with st := .complete }.st ≠ .receiving ∧
      (filled Config.small eight).st = .receiving := by decide

theorem witness_EmptyForeignAndUnknownBlocksChangeNothing :
    (0x00 : Byte) ∉ Config.small.commands ∧ (0x06 : Byte) ∉ Config.small.commands ∧ (0xFF : Byte) ∉ Config.small.commands := by
  decide

theorem witness_PayloadOutsideReceivingIsDiscarded :
    2 ≤ ([0x41, 0x42] : List Byte).length ∧ (fresh Config.small).st ≠ .receiving := by decide

/-- All, some and none of the bytes are accepted. -/
theorem witness_PayloadInReceivingIsWrittenAndCounted :
    2 ≤ ([0x18, 0x19] : List Byte).length ∧ (filled Config.small []).st = .receiving ∧
      (filled Config.small []).Accepts ([0x18, 0x19] : List Byte).length 2 ∧
      (filled Config.small [1, 2, 3, 4, 5, 6, 7]).Accepts ([0x18, 0x19] : List Byte).length 1 ∧
      (filled Config.small eight).Accepts ([0x18, 0x19] : List Byte).length 0 ∧
      (filled cfgUnguarded eight).Accepts ([0x18, 0x19] : List Byte).length 2 := by
  unfold State.Accepts; decide

/-- A block of each length clause, and of each one-byte clause. -/
theorem witness_RxBlockDispatchesOnTheClassifiedBlock :
    ([] : List Byte).length = 0 ∧ decodeBlock Config.small [0x05] = .cmdSof ∧ 2 ≤ ([0x01, 0x01] : List Byte).length := by
  decide

theorem witness_PayloadCutsDoNotMatter_drop :
    2 ≤ ([1, 2] : List Byte).length ∧ ((filled Config.small eight).cfg.overflowPolicy = .drop ∧
      (filled Config.small eight).avail ≤ (filled Config.small eight).cfg.C) ∧
      ∃ t, exec (.rxPayload [1, 2]) (filled Config.small eight) = .next t := ⟨by decide, by decide, _, rfl⟩

/-- The counter at the last value from which it does not wrap. -/
theorem witness_PayloadCutsDoNotMatter_unguarded :
    (filled cfgUnguarded eight).cfg.overflowPolicy = .unguarded ∧
      { filled cfgUnguarded eight with avail := 4294967291 }.avail + ([1, 2] ++ [3, 4] : List Byte).length <
        2 ^ (filled cfgUnguarded eight).cfg.cntBits ∧
      ∃ t, exec (.rxPayload [1, 2]) { filled cfgUnguarded eight with avail := 4294967291 } = .next t :=
  ⟨by decide, by decide, _, rfl⟩

/-- `RbWriteStoresAtTheCursorAndCounts`: a full ring, a ring that takes part, both policies; and a count above and at
the mark. -/
theorem witness_RbWriteStoresAtTheCursorAndCounts :
    (filled Config.small eight).Accepts eight.length 0 ∧ (nearlyFull Config.small).Accepts eight.length 2 ∧
      (filled cfgUnguarded eight).Accepts eight.length 8 ∧
      (nearlyFull Config.small).cfg.T < ((nearlyFull Config.small).avail + 2) % 2 ^ (nearlyFull Config.small).cfg.cntBits := by
  unfold State.Accepts; decide

theorem witness_DropAboveCapacityAcceptsNothing :
    { filled Config.small eight with avail := 9 }.cfg.overflowPolicy = .drop ∧
      Config.small.C < { filled Config.small eight with avail := 9 }.avail ∧ 2 ≤ ([1, 2] : List Byte).length ∧
      { filled Config.small eight with avail := 9 }.st = .receiving := by decide

/-- One byte too many for a ring with room, and for a full one. -/
theorem witness_DropOverrunFillsTheRing :
    (nearlyFull Config.small).cfg.overflowPolicy = .drop ∧ (nearlyFull Config.small).FillLaw ∧
      (nearlyFull Config.small).CursorsInRange ∧
      (nearlyFull Config.small).cfg.C - (nearlyFull Config.small).avail < ([1, 2, 3] : List Byte).length ∧
      (filled Config.small eight).FillLaw ∧ (filled Config.small eight).CursorsInRange ∧
      (filled Config.small eight).avail = (filled Config.small eight).cfg.C ∧
      (filled Config.small eight).cfg.C - (filled Config.small eight).avail < ([1] : List Byte).length := by
  unfold State.FillLaw State.CursorsInRange; decide

/-- `C + 1` and `2 * C` bytes. -/
theorem witness_UnguardedOverrunWrapsOverTheStart :
    (fresh cfgUnguarded).cfg.overflowPolicy = .unguarded ∧ (fresh cfgUnguarded).wc = 0 ∧
      (fresh cfgUnguarded).cfg.C < (0x18 :: eight).length ∧ (eight ++ eight).length ≤ 2 * (fresh cfgUnguarded).cfg.C ∧
      (fresh cfgUnguarded).avail + (eight ++ eight).length < 2 ^ (fresh cfgUnguarded).cfg.cntBits := by decide

/-- `RbReadLineReadsAWholeLineOrNothing`, the clauses of `GET_LINE` on `avail`, and `AvailableLinesIsTheFloor`: `W - 1`,
`W` and `C` bytes. -/
theorem witness_avail_clauses :
    (filled Config.small [1, 2, 3]).avail < (filled Config.small [1, 2, 3]).cfg.W ∧
      (filled Config.small [1, 2, 3, 4]).cfg.W ≤ (filled Config.small [1, 2, 3, 4]).avail ∧
      (filled Config.small [1, 2, 3, 4]).mem.read .storage (ringIndex Config.small 0 3) = some 4 ∧
      (filled Config.small eight).avail = (filled Config.small eight).cfg.C := by decide

/-- Both switches, and both codes (the code also for `CmdEndFlushesAndCountsAFrameInReception`). -/
theorem witness_TxAckSendsTheAckByteWhenEnabled :
    (fresh cfgAck).cfg.ackEnable = true ∧ (fresh cfgAck).cfg.ackCode = .cmdEnd ∧
      (fresh cfgAckIdle).cfg.ackEnable = true ∧ (fresh cfgAckIdle).cfg.ackCode = .cmdIdle ∧
      (fresh Config.small).cfg.ackEnable = false := by decide

/-- The four clauses, at `T` and `T + 1`. -/
theorem witness_FlowCheckRequestsAtOrBelowTheMark :
    ((filled Config.small [1, 2, 3, 4]).avail ≤ Config.small.T ∧ Config.small.reqDedup = false) ∧
      ((filled cfgDedup [1, 2, 3, 4]).avail ≤ cfgDedup.T ∧ cfgDedup.reqDedup = true ∧
        (filled cfgDedup [1, 2, 3, 4]).reqOutstanding = false) ∧
      { filled cfgDedup [1, 2, 3, 4] with reqOutstanding := true }.reqOutstanding = true ∧
      Config.small.T < (filled Config.small [1, 2, 3, 4, 5]).avail := by decide

/-- The steps of each clause: a request emitted; the flag cleared by a payload, a poll and a consumed line that leave
`avail` above the mark (the mark lowered to 0 for the last one), and by a flush. -/
theorem witness_DedupAllowsOneRequestPerCrossing_steps :
    after (step (pending [.pollTick] (fresh cfgDedup))) (fun t => (t.tx, t.reqOutstanding)) = some ([0x03], true) ∧
      after (step (pending [.rxBlock [1, 2, 3, 4, 5]] { filled cfgDedup [] with reqOutstanding := true }))
        (fun t => (t.avail, t.reqOutstanding)) = some (5, false) ∧
      after (step (pending [.pollTick] { filled cfgDedup [1, 2, 3, 4, 5] with reqOutstanding := true }))
        (·.reqOutstanding) = some false ∧
      after (step (pending [.getLine 0] { filled cfgDedupLow eight with reqOutstanding := true }))
        (fun t => (t.avail, t.reqOutstanding)) = some (4, false) ∧
      after (step (pending [.rxBlock [0x02]] { filled cfgDedup [] with reqOutstanding := true })) (·.reqOutstanding) =
        some false := by decide

/-- A run that stays low: one poll of an empty ring. -/
theorem witness_DedupAllowsOneRequestPerCrossing_run :
    StaysLow 1 (pending [.pollTick] (fresh cfgDedup)) ∧
      ∃ t, Sys2Proof.core.run 1 (pending [.pollTick] (fresh cfgDedup)) = Host.Outcome.next t := by
  refine ⟨fun j u h => ?_, _, rfl⟩
  match j, h with
  | 0, h => cases h; exact ⟨fun _ => by unfold State.EmptiesRing; decide, fun h => absurd h (by decide)⟩
  | 1, h => cases h; exact ⟨fun h => absurd h (by decide), fun _ _ => by decide⟩
  | j + 2, _ => exact ⟨fun h => by omega, fun _ h => by omega⟩

/-- A poll with `avail = T`, and a line consumed down to `T`. -/
theorem witness_RequestsComeFromPollsAndConsumedLinesOnly :
    after (step (pending [.pollTick] (filled Config.small [1, 2, 3, 4]))) (·.tx) = some [0x03] ∧
      after (step (pending [.getLine 0] (filled Config.small eight))) (·.tx) = some [0x03] := by decide

/-- The clauses of a repeat, of an underrun (`W - 1` bytes) and of a fetch (`W` bytes). -/
theorem witness_GetLineAttemptsOncePerRowAndFetchesTheOldestLine :
    { filled Config.small eight with lastRow := some 7 }.lastRow = some 7 ∧
      ((filled Config.small [1, 2, 3]).lastRow ≠ some 7 ∧
        (filled Config.small [1, 2, 3]).avail < (filled Config.small [1, 2, 3]).cfg.W) ∧
      ((filled Config.small [1, 2, 3, 4]).mem.wf ∧ (filled Config.small [1, 2, 3, 4]).lastRow ≠ some 7 ∧
        (filled Config.small [1, 2, 3, 4]).cfg.W ≤ (filled Config.small [1, 2, 3, 4]).avail) := by decide

theorem witness_RowNumberSelectsNoBytes :
    (filled Config.small eight).lastRow ≠ some 0 ∧ (filled Config.small eight).lastRow ≠ some 9 ∧
      (∃ t, exec (.getLine 0) (filled Config.small eight) = .next t) ∧
      ∃ u, exec (.getLine 9) (filled Config.small eight) = .next u := ⟨by decide, by decide, ⟨_, rfl⟩, _, rfl⟩

/-- Both ends of the visible window: positions 0 and 7 are blanking, 1 and 6 visible. -/
theorem witness_LineTickFetchesAndHandsOverWhenVisible :
    0 < Config.small.vOffset ∧ Config.small.vOffset + Config.small.N * Config.small.H ≤ 7 ∧
      (Config.small.vOffset ≤ 1 ∧ 1 < Config.small.vOffset + Config.small.N * Config.small.H) ∧
      Config.small.vOffset ≤ 6 ∧ 6 < Config.small.vOffset + Config.small.N * Config.small.H := by decide

/-- The first scanline of the first row and the last one of the last row, new and repeated. -/
theorem witness_RepeatScanlinesFetchNothing :
    (0 < Config.small.H ∧ 0 < Config.small.N ∧ { fresh Config.small with scanline := 1 }.scanline =
        Config.small.vOffset + Config.small.N * 0 + 0 ∧ (fresh Config.small).lastRow ≠ some 0) ∧
      2 < Config.small.H ∧ 1 < Config.small.N ∧
      { fresh Config.small with scanline := 6, lastRow := some 2 }.scanline =
        Config.small.vOffset + Config.small.N * 2 + 1 ∧
      { fresh Config.small with scanline := 6, lastRow := some 2 }.lastRow = some 2 := by decide

/-- A raster frame alone, and one with a payload, a poll and a direct fetch before, between and after its ticks. -/
theorem witness_RasterFrameHandsOverEveryScanline :
    (pending (rasterFrame Config.small) (filled Config.small eight)).inputs.filter movesRaster =
        rasterFrame Config.small ∧
      (pending (.pollTick :: .frameTick :: .rxBlock [1, 2] :: lineTicks 7 ++ [.getLine 65535])
        (filled Config.small eight)).inputs.filter movesRaster = rasterFrame Config.small ∧
      (pending (.pollTick :: .frameTick :: .rxBlock [1, 2] :: lineTicks 7 ++ [.getLine 65535])
        (filled Config.small eight)).InputsWellFormed := by
  unfold State.InputsWellFormed; decide

/-- Nothing pending; the widest row; the narrowest row that is too wide. -/
theorem witness_StepRunsTheDecodedOperation :
    (fresh Config.small).inputs = [] ∧ decodeTransaction Config.small (.getLine 65535) = .ok (.getLine 65535) ∧
      2 ^ Config.small.scanBits ≤ 65536 ∧
      refuses (step (pending [.getLine 65536] (fresh Config.small))) (.noOperation (.rowTooWide 65536)) = true := by decide

theorem witness_DecodeOfEncodeIsTheOperation :
    (Instr.getLine 65535).wellFormed Config.small = true ∧
      encode Config.small (.getLine 65535) = some (.port (.getLine 65535)) ∧
      (Instr.cmdUnknown 0x00).wellFormed Config.small = true ∧
      encode Config.small (.cmdUnknown 0x00) = some (.port (.rxBlock [0x00])) := by decide

theorem witness_EncodeOfDecodeIsTheEncoding :
    decode Config.small (.tx 0x03) = .ok .txReq ∧ decode Config.small (.port (.rxBlock [0x06])) = .ok (.cmdUnknown 0x06) := by
  decide

theorem witness_EveryOperationCompletes :
    (pending [.getLine 65535, .rxBlock eight, .init] (filled Config.small eight)).InputsWellFormed := by
  unfold State.InputsWellFormed; decide

/-- A remainder of one byte, and a whole frame. -/
theorem witness_FrameExpansionIsAWellFormedFrame :
    (2 ≤ ([1, 2, 3, 4, 5] : List Byte).length ∧ (cutBlocks 5 2 [1, 2, 3, 4, 5]).getLast? = some [3, 4, 5]) ∧
      2 ≤ (eight ++ [1, 2, 3, 4]).length ∧ (eight ++ [1, 2, 3, 4]).length = Config.small.frameSize := by decide

/-- `ConfigurationNeverChanges` and every other statement about a step: a step to a next state. -/
theorem witness_step_next :
    (∃ t, exec .lineTick (filled Config.small eight) = .next t) ∧
      ∃ t, step (pending [.lineTick] (filled Config.small eight)) = .next t := ⟨⟨_, rfl⟩, _, rfl⟩

/-- A full ring about to hand a line over. -/
def busy : State := pending [.getLine 2] { filled Config.small eight with processed := 0, scanline := 3, lastRow := some 1 }

theorem witness_StepKeepsMemoryCanonicalAndMarginsZero :
    (busy.mem.wf ∧ busy.MarginsZero ∧ busy.StorageBounded) ∧ ∃ t, step busy = .next t := by
  refine ⟨⟨by decide, fun _ _ => rfl, fun a ha => ?_⟩, _, rfl⟩
  have h : busy.mem.read .storage a = Memory.empty.read .storage a :=
    memWrite_read_outside Config.small 0 eight 0 Memory.empty a fun k _ he => by
      have := ringIndex_lt Config.small 0 (0 + k)
      have : Config.small.C ≤ a := ha
      omega
  rw [h]; rfl

theorem witness_StepKeepsRegistersInRangeAndReadAligned :
    (busy.CursorsInRange ∧ busy.ReadAligned ∧ busy.RegistersInRange) ∧ ∃ t, step busy = .next t :=
  ⟨by unfold State.CursorsInRange State.ReadAligned State.RegistersInRange; decide, _, rfl⟩

/-- Under `Drop`; under `Unguarded` with a payload that just fits, with a frame end on a full ring, and with a long
block outside reception. -/
theorem witness_StepKeepsTheFillLaw :
    (busy.FillLaw ∧ busy.NoOverrunNext ∧ ∃ t, step busy = .next t) ∧
      (pending [.rxBlock [1, 2]] (nearlyFull cfgUnguarded)).FillLaw ∧
      (pending [.rxBlock [1, 2]] (nearlyFull cfgUnguarded)).NoOverrunNext ∧
      (pending [.rxBlock [0x02]] (filled cfgUnguarded eight)).FillLaw ∧
      (pending [.rxBlock [0x02]] (filled cfgUnguarded eight)).NoOverrunNext ∧
      (pending [.rxBlock (0 :: eight)] (fresh cfgUnguarded)).NoOverrunNext := by
  refine ⟨⟨by unfold State.FillLaw; decide, .inl rfl, _, rfl⟩, by unfold State.FillLaw; decide, .inr fun data h => ?_,
    by unfold State.FillLaw; decide, .inr fun data h => ?_, .inr fun data h => ?_⟩
  all_goals cases h; decide

theorem witness_StepKeepsTheAccountingLaw : busy.Accounting ∧ ∃ t, step busy = .next t :=
  ⟨by unfold State.Accounting; decide, _, rfl⟩

theorem witness_StepKeepsTheRequestFlagLaw : busy.FlagLaw ∧ ∃ t, step busy = .next t := ⟨fun _ => rfl, _, rfl⟩

/-- Both alternatives of the written law: a ring without an overrun, and one after an overrun (vector V33). -/
theorem witness_NoNeverWrittenByteIsRead :
    (busy.WrittenLaw ∧ busy.cfg.W ≤ busy.avail ∧ ∃ t, step busy = .next t) ∧
      ({ filled cfgUnguarded eight with wc := 2, avail := 10 }).WrittenLaw := by
  refine ⟨⟨.inl ⟨?_, ?_⟩, by decide, _, rfl⟩, .inr ?_⟩
  · unfold State.FillLaw; decide
  · unfold State.UnreadWritten State.Written; decide
  · unfold State.Written; decide

/-- The premises of `RingIsAFifo`, and the premise of each of its four clauses. -/
theorem witness_RingIsAFifo :
    (busy.mem.wf ∧ busy.FillLaw ∧ busy.UnreadWritten ∧ busy.NoOverrunNext ∧ ∃ t, step busy = .next t) ∧
      ((pending [.rxBlock [1, 2]] busy).ReceivesPayload [1, 2] ∧ (pending [.rxBlock [1, 2]] busy).Accepts 2 0) ∧
      busy.TakesLine ∧ (pending [.rxBlock [0x05]] busy).EmptiesRing ∧
      ((∀ data, ¬(pending [.pollTick] busy).ReceivesPayload data) ∧ ¬(pending [.pollTick] busy).TakesLine ∧
        ¬(pending [.pollTick] busy).EmptiesRing) := by
  refine ⟨⟨by decide, by unfold State.FillLaw; decide, ?_, .inl rfl, _, rfl⟩, ⟨by unfold State.ReceivesPayload; decide, ?_⟩,
    ⟨2, rfl, by decide, by decide⟩, by unfold State.EmptiesRing; decide, fun data h => ?_, ?_, ?_⟩
  · unfold State.UnreadWritten State.Written; decide
  · unfold State.Accepts; decide
  · cases h.1
  · rintro ⟨row, h, -, -⟩; cases h
  · unfold State.EmptiesRing; decide

/-- `StreamsOnlyGrowByOneItem`, `FrameCounterCountsCompletedFrames`, `StFollowsTheTransitionTable`: the steps their
clauses are about; and a flush. -/
theorem witness_whole_block_clauses :
    after (step (pending [.lineTick] { fresh Config.small with scanline := 1 })) (·.out.length) = some 1 ∧
      after (step (pending [.rxBlock [0x02]] (filled cfgAck []))) (fun t => (t.tx, t.frameCounter, t.st)) =
        some ([0x02], 1, .complete) ∧
      after (step (pending [.init] (filled Config.small eight))) (fun t => (t.frameCounter, t.st)) = some (0, .idle) ∧
      after (exec .rbFlush { fresh Config.small with frameCounter := 3 }) (·.frameCounter) = some 3 := by decide

theorem witness_IdleAndCompleteBehaveAlike :
    (∃ t, exec .flowCheck { busy with st := .idle } = .next t) ∧ ∃ u, exec .flowCheck { busy with st := .complete } = .next u :=
  ⟨⟨_, rfl⟩, _, rfl⟩

theorem witness_ConsumerLeavesProducerStateAlone :
    busy.inputs = [.getLine 2] ∧ (Transaction.getLine 2).domain = .consumer ∧ ∃ t, step busy = .next t :=
  ⟨rfl, rfl, _, rfl⟩

theorem witness_ProducerLeavesRasterStateAlone : ∃ t, exec (.rxBlock [1, 2]) busy = .next t := ⟨_, rfl⟩

theorem witness_LoopedBackBytesSendNothingAgain : { fresh cfgAck with st := .complete }.st = .complete := by decide

end Sys2Proof.Tests
end

section
/-! Totality (R16, R220): every operation answers a next state, and a step over transactions
that the ports can carry does too, because the decoder rejects no such transaction (R45, R105). -/

namespace Sys2Proof.Machine

/-- Every arm of the dispatch ends in `answer`, so no operation faults or is refused (R220). -/
theorem exec_total (i : Instr) (s : State) : ∃ t, exec i s = .next t := by
  cases i <;> exact ⟨_, rfl⟩

/-- The decoder rejects exactly the transactions that no port can carry (R45, R105). -/
theorem decodeTransaction_ok_iff (c : Config) (tr : Transaction) :
    (∃ i, decodeTransaction c tr = .ok i) ↔ tr.wellFormed c = true := by
  cases tr with
  | getLine row => by_cases hr : row < c.scanMod <;> simp [decodeTransaction, Transaction.wellFormed, hr]
  | init | rxBlock _ | lineTick | frameTick | pollTick | availLines => exact ⟨fun _ => rfl, fun _ => ⟨_, rfl⟩⟩

/-- A step with nothing pending holds the state (R240, R251). -/
theorem step_of_inputs_nil {s : State} (hi : s.inputs = []) : step s = .next s := by
  simp [step, fetch, hi]

/-- A step runs the operation that the oldest pending transaction decodes to. -/
theorem step_of_decode_ok {s : State} {tr : Transaction} {rest : List Transaction} {i : Instr}
    (hi : s.inputs = tr :: rest) (hd : decodeTransaction s.cfg tr = .ok i) : step s = exec i s.dequeue := by
  simp [step, fetch, hi, hd]

/-- What the ports can carry depends on the configuration and on the pending transactions alone, so an operation that
changes neither keeps it. -/
theorem State.InputsWellFormed.of_eq {s t : State} (h : s.InputsWellFormed) (hcfg : t.cfg = s.cfg)
    (hin : t.inputs = s.inputs) : t.InputsWellFormed := by
  unfold State.InputsWellFormed
  rw [hcfg, hin]
  exact h

/-- Taking the oldest transaction off leaves only transactions that were already pending. -/
theorem State.InputsWellFormed.dequeue {s : State} (h : s.InputsWellFormed) : s.dequeue.InputsWellFormed :=
  fun tr htr => h tr (List.mem_of_mem_tail htr)

/-- When the oldest transaction is one its port can carry, the step is not refused. -/
theorem step_total {s : State} (h : s.InputsWellFormed) : ∃ t, step s = .next t := by
  cases hi : s.inputs with
  | nil => exact ⟨s, step_of_inputs_nil hi⟩
  | cons tr rest =>
    obtain ⟨i, hd⟩ := (decodeTransaction_ok_iff s.cfg tr).2 (h tr (by simp [hi]))
    obtain ⟨t, ht⟩ := exec_total i s.dequeue
    exact ⟨t, (step_of_decode_ok hi hd).trans ht⟩

/-- Only `dequeue` touches the pending transactions, and nothing touches the configuration. -/
theorem step_keeps_inputsWellFormed {s t : State} (h : step s = .next t) (hs : s.InputsWellFormed) :
    t.InputsWellFormed :=
  step_keeps (P := State.InputsWellFormed) h hs
    (result := fun _ _ hu => hu.of_eq rfl rfl)
    (dequeue := fun _ hu => hu.dequeue)
    (reset := fun _ hu => hu.of_eq rfl rfl)
    (flush := fun _ _ hu => hu.of_eq rfl rfl)
    (count := fun _ hu => hu.of_eq rfl rfl)
    (ack := fun u hu => hu.of_eq (sendAck_cfg u) (sendAck_inputs u))
    (payload := fun data hu _ _ _ => hu.of_eq (acceptPayload_cfg data _) (acceptPayload_inputs data _))
    (flow := fun u hu => hu.of_eq (checkFlow_cfg u) (checkFlow_inputs u))
    (frameTick := fun _ hu => hu.of_eq rfl rfl)
    (out := fun _ hu => hu.of_eq rfl rfl)
    (attempt := fun _ _ _ hu => hu.of_eq rfl rfl)
    (position := fun _ hu => hu.of_eq rfl rfl)
    (fetched := fun _ _ _ hu _ => hu.of_eq rfl rfl)

/-- Settles O34: an operation is total by its dispatch; a step is, because its ports carry only what decodes. -/
theorem everyOperationCompletes : Obligations.EveryOperationCompletes := by
  unfold Obligations.EveryOperationCompletes
  refine ⟨exec_total, fun s hs => ?_⟩
  obtain ⟨t, ht⟩ := step_total hs
  exact ⟨t, ht, step_keeps_inputsWellFormed ht hs⟩

end Sys2Proof.Machine
end

section
/-! The memories under every step (R34, R60, R192): a ring write stays inside `storage`, a fetched line inside the
image window of `line_buf`, and both keep the canonical form. -/

namespace Sys2Proof.Machine

/-- The laws of the two memories: canonical form, zero margins, nothing stored beyond the ring. -/
def State.MemoryLaws (s : State) : Prop := s.mem.wf ∧ s.MarginsZero ∧ s.StorageBounded

/-- The memory laws read the configuration and the memory alone. -/
theorem State.MemoryLaws.of_eq {s t : State} (h : s.MemoryLaws) (hcfg : t.cfg = s.cfg) (hmem : t.mem = s.mem) :
    t.MemoryLaws := by
  unfold State.MemoryLaws State.MarginsZero State.StorageBounded
  rw [hcfg, hmem]
  exact h

/-- The empty memory of reset meets the memory laws, whatever the configuration (R48). -/
theorem State.MemoryLaws.of_mem_empty {s : State} (hmem : s.mem = Memory.empty) : s.MemoryLaws := by
  unfold State.MemoryLaws State.MarginsZero State.StorageBounded
  rw [hmem]
  exact ⟨Memory.empty_wf, fun i _ => Memory.read_empty_lineBuf i, fun a _ => Memory.read_empty_storage a⟩

/-- A ring write lands on indices below `C` only, and on no byte of `line_buf`. -/
theorem acceptPayload_keeps_memoryLaws (data : List Byte) {s : State} (h : s.MemoryLaws) :
    (acceptPayload data s).MemoryLaws := by
  obtain ⟨hwf, hmargins, hbound⟩ := h
  refine ⟨?_, fun i hi => ?_, fun a ha => ?_⟩
  · rw [acceptPayload_mem]
    exact memWrite_wf s.cfg s.wc _ 0 hwf
  · rw [acceptPayload_mem, memWrite_read_lineBuf]
    exact hmargins i (by simpa using hi)
  · rw [acceptPayload_cfg] at ha
    rw [acceptPayload_mem, memWrite_read_outside]
    · exact hbound a ha
    · intro k _
      exact ((ringIndex_lt s.cfg s.wc (0 + k)).trans_le ha).ne

/-- A line of `W` bytes copied to `line_buf` stays inside the image window, and leaves `storage` alone. -/
theorem lineWrite_keeps_memoryLaws {s t : State} {line : List Byte} (h : s.MemoryLaws) (hlen : line.length = s.cfg.W)
    (hcfg : t.cfg = s.cfg) (hmem : t.mem = lineWrite s.cfg 0 line s.mem) : t.MemoryLaws := by
  obtain ⟨hwf, hmargins, hbound⟩ := h
  refine ⟨?_, fun i hi => ?_, fun a ha => ?_⟩
  · rw [hmem]
    exact lineWrite_wf s.cfg line 0 hwf
  · rw [hcfg] at hi
    rw [hmem, lineWrite_read_outside s.cfg line 0 hwf]
    · exact hmargins i hi
    · intro k hk
      simp only [lineIndex]
      omega
  · rw [hmem, lineWrite_read_storage]
    exact hbound a (hcfg ▸ ha)

/-- Settles O38: only a payload write and a fetch write a memory, and only `INIT` clears both. -/
theorem stepKeepsMemoryCanonicalAndMarginsZero : Obligations.StepKeepsMemoryCanonicalAndMarginsZero :=
  fun _ _ hs h => step_keeps (P := State.MemoryLaws) h hs
    (result := fun _ _ hu => hu)
    (dequeue := fun _ hu => hu)
    (reset := fun _ _ => .of_mem_empty rfl)
    (flush := fun _ _ hu => hu)
    (count := fun _ hu => hu)
    (ack := fun u hu => hu.of_eq (sendAck_cfg u) (sendAck_mem u))
    (payload := fun data hu _ _ _ => acceptPayload_keeps_memoryLaws data hu)
    (flow := fun u hu => hu.of_eq (checkFlow_cfg u) (checkFlow_mem u))
    (frameTick := fun _ hu => hu)
    (out := fun _ hu => hu)
    (attempt := fun _ _ _ hu => hu)
    (position := fun _ hu => hu)
    (fetched := fun u _ _ hu _ => lineWrite_keeps_memoryLaws hu (memRead_length u u.rc u.cfg.W) rfl rfl)

end Sys2Proof.Machine
end

section
/-! The ranges of the registers under every step (R20, R39, R41): each update is reduced as its rule says, and the read
cursor moves by whole lines of a ring that is a whole number of lines long. -/

namespace Sys2Proof.Machine

theorem advance_lt (c : Config) (a n : Nat) : advance c a n < c.C := Nat.mod_lt _ c.C_pos

theorem raise_lt (c : Config) (x n : Nat) : raise c x n < c.cntMod := Nat.mod_lt _ c.cntMod_pos

theorem nextScanline_lt (c : Config) (x : Nat) : nextScanline c x < c.scanMod := Nat.mod_lt _ c.scanMod_pos

/-- A cursor moved by one line keeps its place in the line, since `W` divides `C` (R41). -/
theorem advance_line_mod (c : Config) (a : Nat) : advance c a c.W % c.W = a % c.W := by
  rw [advance, Nat.mod_mod_of_dvd _ c.W_dvd_C, Nat.add_mod_right]

/-- The laws of the two cursors: both in range, the read cursor at the start of a line. -/
def State.CursorLaws (s : State) : Prop := s.CursorsInRange ∧ s.ReadAligned

theorem cursorLaws_iff (s : State) :
    s.CursorLaws ↔ s.wc < s.cfg.C ∧ s.rc < s.cfg.C ∧ s.rc % s.cfg.W = 0 := and_assoc

/-- Both cursors at 0, as a flush and reset leave them, meet the cursor laws. -/
theorem State.CursorLaws.of_zero {s : State} (hwc : s.wc = 0) (hrc : s.rc = 0) : s.CursorLaws := by
  rw [cursorLaws_iff, hwc, hrc]
  exact ⟨s.cfg.C_pos, s.cfg.C_pos, Nat.zero_mod _⟩

theorem step_keeps_cursorLaws {s t : State} (h : step s = .next t) (hs : s.CursorLaws) : t.CursorLaws :=
  step_keeps h hs
    (result := fun _ _ hu => hu)
    (dequeue := fun _ hu => hu)
    (reset := fun _ _ => .of_zero rfl rfl)
    (flush := fun _ _ _ => .of_zero rfl rfl)
    (count := fun _ hu => hu)
    (ack := fun u hu => by simpa [cursorLaws_iff] using hu)
    (payload := fun data hu _ _ _ => by
      obtain ⟨-, hrc, haligned⟩ := (cursorLaws_iff _).1 hu
      rw [cursorLaws_iff, acceptPayload_cfg, acceptPayload_wc, acceptPayload_rc]
      exact ⟨advance_lt _ _ _, hrc, haligned⟩)
    (flow := fun u hu => by simpa [cursorLaws_iff] using hu)
    (frameTick := fun _ hu => hu)
    (out := fun _ hu => hu)
    (attempt := fun _ _ _ hu => hu)
    (position := fun _ hu => hu)
    (fetched := fun u _ _ hu _ => by
      obtain ⟨⟨hwc, -⟩, haligned⟩ := hu
      exact ⟨⟨hwc, advance_lt _ _ _⟩, (advance_line_mod u.cfg u.rc).trans haligned⟩)

theorem step_keeps_registersInRange {s t : State} (h : step s = .next t) (hs : s.RegistersInRange) :
    t.RegistersInRange :=
  step_keeps h hs
    (result := fun _ _ hu => hu)
    (dequeue := fun _ hu => hu)
    (reset := fun u _ => by simp [State.RegistersInRange, u.cfg.cntMod_pos, u.cfg.scanMod_pos])
    (flush := fun u _ ⟨_, _, _, hframes, hscan, hrow⟩ =>
      ⟨u.cfg.cntMod_pos, u.cfg.cntMod_pos, u.cfg.cntMod_pos, hframes, hscan, hrow⟩)
    (count := fun _ ⟨havail, hrec, hproc, _, hscan, hrow⟩ => ⟨havail, hrec, hproc, raise_lt _ _ _, hscan, hrow⟩)
    (ack := fun u hu => by simpa [State.RegistersInRange] using hu)
    (payload := fun data hu _ _ _ => by
      obtain ⟨-, -, hproc, hframes, hscan, hrow⟩ := hu
      simp only [State.RegistersInRange, acceptPayload_cfg, acceptPayload_avail, acceptPayload_received,
        acceptPayload_processed, acceptPayload_frameCounter, acceptPayload_scanline, acceptPayload_lastRow]
      exact ⟨raise_lt _ _ _, raise_lt _ _ _, hproc, hframes, hscan, hrow⟩)
    (flow := fun u hu => by simpa [State.RegistersInRange] using hu)
    (frameTick := fun u ⟨havail, hrec, hproc, hframes, _, _⟩ =>
      ⟨havail, hrec, hproc, hframes, u.cfg.scanMod_pos, by simp⟩)
    (out := fun _ hu => hu)
    (attempt := fun _ row hlt ⟨havail, hrec, hproc, hframes, hscan, _⟩ =>
      ⟨havail, hrec, hproc, hframes, hscan, by simpa using hlt⟩)
    (position := fun _ ⟨havail, hrec, hproc, hframes, _, hrow⟩ =>
      ⟨havail, hrec, hproc, hframes, nextScanline_lt _ _, hrow⟩)
    (fetched := fun _ row hlt ⟨havail, hrec, _, hframes, hscan, _⟩ _ =>
      ⟨(Nat.sub_le _ _).trans_lt havail, hrec, raise_lt _ _ _, hframes, hscan, by simpa using hlt⟩)

/-- Settles O39: the cursor laws and the register ranges are each kept by every step. -/
theorem stepKeepsRegistersInRangeAndReadAligned : Obligations.StepKeepsRegistersInRangeAndReadAligned := by
  rintro s t ⟨hcursors, haligned, hregs⟩ h
  obtain ⟨hcursors', haligned'⟩ := step_keeps_cursorLaws h ⟨hcursors, haligned⟩
  exact ⟨hcursors', haligned', step_keeps_registersInRange h hregs⟩

end Sys2Proof.Machine
end

section
/-! The accounting law under every step (R42): a payload raises `avail` and `received` by the same number, a fetch takes
`W` from `avail` and adds `W` to `processed`, and a flush zeroes all three. -/

namespace Sys2Proof.Machine

/-- The accounting law reads the configuration and the three counters alone. -/
theorem State.Accounting.of_eq {s t : State} (h : s.Accounting) (hcfg : t.cfg = s.cfg) (havail : t.avail = s.avail)
    (hrec : t.received = s.received) (hproc : t.processed = s.processed) : t.Accounting := by
  unfold State.Accounting
  rw [hcfg, havail, hrec, hproc]
  exact h

/-- The three counters at 0, as a flush and reset leave them, meet the law. -/
theorem State.Accounting.of_zero {s : State} (havail : s.avail = 0) (hrec : s.received = 0) (hproc : s.processed = 0) :
    s.Accounting := by
  simp [State.Accounting, havail, hrec, hproc]

/-- A counter raised modulo `2^CNT_BITS`, as an integer. -/
theorem raise_cast (c : Config) (x n : Nat) : (raise c x n : Int) = ((x : Int) + n) % c.cntMod := by
  simp [raise]

/-- Under the law `avail` is a remainder, so it is below the modulus. -/
theorem State.Accounting.avail_lt {s : State} (h : s.Accounting) : s.avail < s.cfg.cntMod := by
  have hlt := Int.emod_lt_of_pos ((s.received : Int) - s.processed) (Int.natCast_pos.2 s.cfg.cntMod_pos)
  rw [← h] at hlt
  exact Int.ofNat_lt.1 hlt

/-- `avail` and `received` raised by one number keep the law, whatever the wraps. -/
theorem acceptPayload_keeps_accounting (data : List Byte) {s : State} (h : s.Accounting) :
    (acceptPayload data s).Accounting := by
  unfold State.Accounting at h ⊢
  rw [acceptPayload_cfg, acceptPayload_avail, acceptPayload_received, acceptPayload_processed, raise_cast, raise_cast, h,
    Int.emod_add_emod, Int.emod_sub_emod]
  congr 1
  ring

/-- `W` bytes moved from `avail` to `processed` keep the law: `avail` holds them, so its difference does not wrap. -/
theorem State.Accounting.of_line_taken {s t : State} (h : s.Accounting) (hle : s.cfg.W ≤ s.avail) (hcfg : t.cfg = s.cfg)
    (havail : t.avail = s.avail - s.cfg.W) (hrec : t.received = s.received)
    (hproc : t.processed = raise s.cfg s.processed s.cfg.W) : t.Accounting := by
  have hlt := h.avail_lt
  unfold State.Accounting at h ⊢
  rw [hcfg, havail, hrec, hproc, raise_cast, Int.sub_emod_emod]
  calc ((s.avail - s.cfg.W : Nat) : Int)
      = ((s.avail : Int) - s.cfg.W) % s.cfg.cntMod := by
        rw [Int.emod_eq_of_lt] <;> omega
    _ = ((s.received : Int) - (s.processed + s.cfg.W)) % s.cfg.cntMod := by
        rw [h, Int.emod_sub_emod, sub_sub]

/-- Settles O41: the counters move together or not at all. -/
theorem stepKeepsTheAccountingLaw : Obligations.StepKeepsTheAccountingLaw :=
  fun _ _ hs h => step_keeps (P := State.Accounting) h hs
    (result := fun _ _ hu => hu)
    (dequeue := fun _ hu => hu)
    (reset := fun _ _ => .of_zero rfl rfl rfl)
    (flush := fun _ _ _ => .of_zero rfl rfl rfl)
    (count := fun _ hu => hu)
    (ack := fun u hu => hu.of_eq (sendAck_cfg u) (sendAck_avail u) (sendAck_received u) (sendAck_processed u))
    (payload := fun data hu _ _ _ => acceptPayload_keeps_accounting data hu)
    (flow := fun u hu => hu.of_eq (checkFlow_cfg u) (checkFlow_avail u) (checkFlow_received u) (checkFlow_processed u))
    (frameTick := fun _ hu => hu)
    (out := fun _ hu => hu)
    (attempt := fun _ _ _ hu => hu)
    (position := fun _ hu => hu)
    (fetched := fun _ _ _ hu hle => hu.of_line_taken hle rfl rfl rfl rfl)

end Sys2Proof.Machine
end

section
/-! The configuration under every operation and every step (R33). -/

namespace Sys2Proof.Machine

@[simp] theorem receiveBlock_cfg (data : List Byte) (s : State) : (receiveBlock data s).cfg = s.cfg := by
  rcases receiveBlock_cases data s with he | ⟨_, _, _, he⟩ | ⟨_, _, he⟩ | ⟨_, _, he⟩ | ⟨_, _, he⟩ <;> simp [he]

@[simp] theorem tickLine_cfg (s : State) : (tickLine s).cfg = s.cfg := by
  rcases tickLine_cases s with ⟨_, he⟩ | ⟨_, he⟩
  · rw [he]
  · rw [he, handOver_cfg, fetchLine_cfg]

/-- A step that answers a next state holds the state, or is an operation on the state without its transaction. -/
theorem step_eq_or_exec {s t : State} (h : step s = .next t) : t = s ∨ ∃ i, exec i s.dequeue = .next t := by
  unfold step at h
  split at h
  · cases h; exact .inl rfl
  · exact .inr ⟨_, h⟩
  · cases h

theorem exec_keeps_cfg {i : Instr} {s t : State} (h : exec i s = .next t) : t.cfg = s.cfg := by
  cases i with
  | cmdReq | cmdIdle | cmdUnknown | rxEmpty | getAvailableLines | cmdSof | init | frameTick | rbFlush | txEmit =>
    cases h; rfl
  | cmdData => cases h; exact dataMarker_cfg s
  | cmdEnd => cases h; exact endOfFrame_cfg s
  | rxPayload data => cases h; exact payload_cfg data s
  | rxBlock data => cases h; exact receiveBlock_cfg data s
  | txReq => cases h; exact sendRequest_cfg s
  | txAck => cases h; exact sendAck_cfg s
  | flowCheck => cases h; exact checkFlow_cfg s
  | lineTick => cases h; exact tickLine_cfg s
  | getLine row => cases h; exact fetchLine_cfg row s
  | rbWrite data => cases h; exact ringWrite_cfg data s
  | rbReadLine => cases h; exact ringReadLine_cfg s

/-- Settles O37: no operation writes the parameters, and a step is an operation or nothing. -/
theorem configurationNeverChanges : Obligations.ConfigurationNeverChanges := by
  refine ⟨fun _ _ _ => exec_keeps_cfg, fun s t h => ?_⟩
  obtain rfl | ⟨i, hi⟩ := step_eq_or_exec h
  · rfl
  · exact (exec_keeps_cfg hi).trans s.dequeue_cfg

end Sys2Proof.Machine
end

section
/-! The request flag without de-duplication (R37): the one emission that sets the flag is guarded by `REQ_DEDUP`. -/

namespace Sys2Proof.Machine

/-- An operation that leaves the parameters alone, and can set the flag only under de-duplication, keeps the law. -/
theorem State.FlagLaw.of_imp {s t : State} (h : s.FlagLaw) (hcfg : t.cfg = s.cfg)
    (hflag : s.cfg.reqDedup = false → s.reqOutstanding = false → t.reqOutstanding = false) : t.FlagLaw :=
  fun hdedup => have hs := hcfg ▸ hdedup; hflag hs (h hs)

/-- A clear flag meets the law. -/
theorem State.FlagLaw.of_clear {s : State} (hflag : s.reqOutstanding = false) : s.FlagLaw := fun _ => hflag

/-- `FLOW_CHECK`'s effect on the request flag (R173, R174). -/
theorem checkFlow_reqOutstanding (s : State) :
    (checkFlow s).reqOutstanding = if s.avail ≤ s.cfg.T then s.cfg.reqDedup || s.reqOutstanding else false := by
  rw [checkFlow_eq]

/-- A payload in reception clears the request flag above the mark, as its ring write does (R121). -/
theorem acceptPayload_reqOutstanding (data : List Byte) (s : State) :
    (acceptPayload data s).reqOutstanding =
      if s.cfg.T < raise s.cfg s.avail (acceptedCount data s) then false else s.reqOutstanding :=
  ringWrite_reqOutstanding data s

/-- Settles O42: a payload only clears the flag, and a flow check sets it under de-duplication only. -/
theorem stepKeepsTheRequestFlagLaw : Obligations.StepKeepsTheRequestFlagLaw :=
  fun _ _ hs h => step_keeps (P := State.FlagLaw) h hs
    (result := fun _ _ hu => hu)
    (dequeue := fun _ hu => hu)
    (reset := fun _ _ => .of_clear rfl)
    (flush := fun _ _ _ => .of_clear rfl)
    (count := fun _ hu => hu)
    (ack := fun u hu => hu.of_imp (sendAck_cfg u) fun _ hflag => (sendAck_reqOutstanding u).trans hflag)
    (payload := fun data hu _ _ _ => hu.of_imp (acceptPayload_cfg data _) fun _ hflag => by
      rw [acceptPayload_reqOutstanding, hflag, ite_self])
    (flow := fun u hu => hu.of_imp (checkFlow_cfg u) fun hdedup hflag => by
      rw [checkFlow_reqOutstanding, hdedup, hflag, Bool.or_self, ite_self])
    (frameTick := fun _ hu => hu)
    (out := fun _ hu => hu)
    (attempt := fun _ _ _ hu => hu)
    (position := fun _ hu => hu)
    (fetched := fun _ _ _ hu _ => hu)

end Sys2Proof.Machine
end

section
/-! The frame counter (R26): who writes it, and that nothing reads it. -/

namespace Sys2Proof.Machine

/-! ## Who writes it -/

/-- A frame-end marker counts a frame in reception, and no other (R148). -/
theorem endOfFrame_frameCounter (s : State) :
    (endOfFrame s).frameCounter = if s.st = .receiving then raise s.cfg s.frameCounter 1 else s.frameCounter := by
  unfold endOfFrame
  split <;> simp [*]

/-- A one-byte block of `CMD_END` is the frame-end marker, since the command bytes differ (R9, R141). -/
theorem receiveBlock_cmdEnd (s : State) : receiveBlock [s.cfg.cmdEnd] s = endOfFrame s := by
  obtain ⟨hdata, -, -, -, -, -, hsof, -, -, -⟩ := s.cfg.commands_distinct
  rw [receiveBlock, receiveCommand, if_neg hsof, if_neg hdata.symm, if_pos rfl]

/-- Of the received blocks only the frame-end marker in reception counts a frame. -/
theorem receiveBlock_frameCounter (data : List Byte) (s : State) :
    (receiveBlock data s).frameCounter =
      if data = [s.cfg.cmdEnd] ∧ s.st = .receiving then raise s.cfg s.frameCounter 1 else s.frameCounter := by
  by_cases hdata : data = [s.cfg.cmdEnd]
  · simp [hdata, receiveBlock_cmdEnd, endOfFrame_frameCounter]
  · rw [if_neg fun h => hdata h.1]
    rcases receiveBlock_cases data s with he | ⟨_, _, _, he⟩ | ⟨hend, _, _⟩ | ⟨hend, _, _⟩ | ⟨_, _, he⟩
    · rw [he]
    · rw [he, flushTo_frameCounter]
    · exact absurd hend hdata
    · exact absurd hend hdata
    · rw [he, acceptPayload_frameCounter]

@[simp] theorem fetchLine_frameCounter (row : Nat) (s : State) :
    (fetchLine row s).2.frameCounter = s.frameCounter := by
  rcases fetchLine_cases row s with ⟨_, he⟩ | ⟨_, _, he⟩ | ⟨_, _, he⟩ <;> rw [he]
  rw [checkFlow_frameCounter]

@[simp] theorem tickLine_frameCounter (s : State) : (tickLine s).frameCounter = s.frameCounter := by
  rcases tickLine_cases s with ⟨_, he⟩ | ⟨_, he⟩
  · rw [he]
  · rw [he, handOver_frameCounter, fetchLine_frameCounter]

/-- What a step does to the frame counter: `INIT` clears it, a completed frame raises it, nothing else moves it. -/
theorem step_frameCounter {s t : State} (h : step s = .next t) :
    t.frameCounter =
      if s.inputs.head? = some .init then 0
      else if s.inputs.head? = some (.rxBlock [s.cfg.cmdEnd]) ∧ s.st = .receiving
        then raise s.cfg s.frameCounter 1
      else s.frameCounter := by
  rcases step_cases h with ⟨hi, rfl⟩ | ⟨tr, rest, hi, h⟩
  · simp [hi]
  rcases h with ⟨rfl, rfl⟩ | ⟨data, rfl, rfl⟩ | ⟨rfl, rfl⟩ | ⟨rfl, rfl⟩ | ⟨row, _, rfl, rfl⟩ | ⟨rfl, rfl⟩ | ⟨rfl, rfl⟩
  · simp [hi]
  · rw [setResult_frameCounter, receiveBlock_frameCounter, if_neg (by simp [hi] : ¬s.inputs.head? = some .init)]
    exact if_congr (by simp [hi]) rfl rfl
  all_goals simp [hi]

/-! ## Nothing reads it

Every shared operation commutes with putting another value into the counter, but for the two that write it. -/

/-- The state with another value of `frame_counter`. -/
def State.withFrameCounter (s : State) (n : Nat) : State := { s with frameCounter := n }

section

variable (s : State) (n : Nat)

@[simp] theorem State.withFrameCounter_cfg : (s.withFrameCounter n).cfg = s.cfg := rfl
@[simp] theorem State.withFrameCounter_st : (s.withFrameCounter n).st = s.st := rfl
@[simp] theorem State.withFrameCounter_scanline : (s.withFrameCounter n).scanline = s.scanline := rfl
@[simp] theorem State.withFrameCounter_lastRow : (s.withFrameCounter n).lastRow = s.lastRow := rfl

theorem sendRequest_withFrameCounter :
    sendRequest (s.withFrameCounter n) = (sendRequest s).withFrameCounter n := by
  unfold sendRequest
  rw [apply_ite fun u : State => u.withFrameCounter n]
  rfl

theorem sendAck_withFrameCounter : sendAck (s.withFrameCounter n) = (sendAck s).withFrameCounter n := by
  unfold sendAck
  rw [apply_ite fun u : State => u.withFrameCounter n]
  rfl

theorem checkFlow_withFrameCounter : checkFlow (s.withFrameCounter n) = (checkFlow s).withFrameCounter n := by
  rw [checkFlow_eq, checkFlow_eq]
  rfl

theorem ringWrite_withFrameCounter (data : List Byte) :
    ringWrite data (s.withFrameCounter n) = (ringWrite data s).withFrameCounter n := by
  rw [ringWrite_eq, ringWrite_eq]
  rfl

theorem acceptPayload_withFrameCounter (data : List Byte) :
    acceptPayload data (s.withFrameCounter n) = (acceptPayload data s).withFrameCounter n := by
  unfold acceptPayload
  rw [ringWrite_withFrameCounter]
  rfl

theorem payload_withFrameCounter (data : List Byte) :
    payload data (s.withFrameCounter n) = (payload data s).withFrameCounter n := by
  unfold payload
  rw [State.withFrameCounter_st]
  cases s.st with
  | idle | complete => rfl
  | receiving => exact acceptPayload_withFrameCounter s n data

theorem dataMarker_withFrameCounter : dataMarker (s.withFrameCounter n) = (dataMarker s).withFrameCounter n := by
  unfold dataMarker
  rw [State.withFrameCounter_st]
  cases s.st <;> rfl

/-- The frame-end marker writes the counter, so the value put in is raised where the old one was. -/
theorem endOfFrame_withFrameCounter : ∃ k, endOfFrame (s.withFrameCounter n) = (endOfFrame s).withFrameCounter k := by
  unfold endOfFrame
  rw [State.withFrameCounter_st]
  cases s.st with
  | idle | complete => exact ⟨n, rfl⟩
  | receiving =>
    exact ⟨raise s.cfg n 1, sendAck_withFrameCounter (countFrame (flushTo .complete s)) (raise s.cfg n 1)⟩

theorem receiveCommand_withFrameCounter (b : Byte) :
    ∃ k, receiveCommand b (s.withFrameCounter n) = (receiveCommand b s).withFrameCounter k := by
  unfold receiveCommand
  rw [State.withFrameCounter_cfg]
  split
  · exact ⟨n, rfl⟩
  split
  · exact ⟨n, dataMarker_withFrameCounter s n⟩
  split
  · exact endOfFrame_withFrameCounter s n
  · exact ⟨n, rfl⟩

theorem receiveBlock_withFrameCounter (data : List Byte) :
    ∃ k, receiveBlock data (s.withFrameCounter n) = (receiveBlock data s).withFrameCounter k := by
  match data with
  | [] => exact ⟨n, rfl⟩
  | [b] => exact receiveCommand_withFrameCounter s n b
  | b₀ :: b₁ :: rest => exact ⟨n, payload_withFrameCounter s n (b₀ :: b₁ :: rest)⟩

theorem ringReadLine_withFrameCounter :
    ringReadLine (s.withFrameCounter n) = ((ringReadLine s).1, (ringReadLine s).2.withFrameCounter n) := by
  rcases ringReadLine_cases s with ⟨hlt, he⟩ | ⟨hle, he⟩ <;>
    rcases ringReadLine_cases (s.withFrameCounter n) with ⟨hlt', he'⟩ | ⟨hle', he'⟩
  · rw [he, he']
  · exact absurd hle' hlt.not_ge
  · exact absurd hle hlt'.not_ge
  · rw [he, he']
    rfl

theorem fetchLine_withFrameCounter (row : Nat) :
    fetchLine row (s.withFrameCounter n) = ((fetchLine row s).1, (fetchLine row s).2.withFrameCounter n) := by
  have attempt : ({ s.withFrameCounter n with lastRow := some row } : State) =
      ({ s with lastRow := some row } : State).withFrameCounter n := rfl
  unfold fetchLine
  rw [State.withFrameCounter_lastRow, attempt, ringReadLine_withFrameCounter]
  split
  · rfl
  · rcases ringReadLine_cases { s with lastRow := some row } with ⟨_, he⟩ | ⟨_, he⟩ <;> rw [he]
    dsimp only
    rw [checkFlow_eq, checkFlow_eq]
    rfl

theorem tickLine_withFrameCounter : tickLine (s.withFrameCounter n) = (tickLine s).withFrameCounter n := by
  rcases tickLine_cases s with ⟨hblank, he⟩ | ⟨hvisible, he⟩ <;>
    rcases tickLine_cases (s.withFrameCounter n) with ⟨hblank', he'⟩ | ⟨hvisible', he'⟩
  · rw [he, he']
    rfl
  · exact absurd hvisible' hblank
  · exact absurd hvisible hblank'
  · rw [he, he']
    exact congrArg (fun p : Bool × State => handOver p.2)
      (fetchLine_withFrameCounter { s with scanline := nextScanline s.cfg s.scanline } n (sourceRow s.cfg s.scanline))

end

/-- No operation reads `frame_counter`: with another value of it the effect on every other field is the same. -/
theorem exec_withFrameCounter {i : Instr} {s t : State} (n : Nat) (h : exec i s = .next t) :
    ∃ k, exec i (s.withFrameCounter n) = .next (t.withFrameCounter k) := by
  cases i with
  | cmdReq | cmdIdle | cmdUnknown | rxEmpty | getAvailableLines | cmdSof | frameTick | rbFlush | txEmit =>
    cases h; exact ⟨n, rfl⟩
  | init => cases h; exact ⟨0, rfl⟩
  | cmdData => cases h; exact ⟨n, congrArg (answer .none) (dataMarker_withFrameCounter s n)⟩
  | cmdEnd =>
    cases h
    obtain ⟨k, hk⟩ := endOfFrame_withFrameCounter s n
    exact ⟨k, congrArg (answer .none) hk⟩
  | rxPayload data => cases h; exact ⟨n, congrArg (answer .none) (payload_withFrameCounter s n data)⟩
  | rxBlock data =>
    cases h
    obtain ⟨k, hk⟩ := receiveBlock_withFrameCounter s n data
    exact ⟨k, congrArg (answer .none) hk⟩
  | txReq => cases h; exact ⟨n, congrArg (answer .none) (sendRequest_withFrameCounter s n)⟩
  | txAck => cases h; exact ⟨n, congrArg (answer .none) (sendAck_withFrameCounter s n)⟩
  | flowCheck => cases h; exact ⟨n, congrArg (answer .none) (checkFlow_withFrameCounter s n)⟩
  | lineTick => cases h; exact ⟨n, congrArg (answer .none) (tickLine_withFrameCounter s n)⟩
  | getLine row =>
    cases h
    exact ⟨n, congrArg (fun p : Bool × State => answer (.bit p.1) p.2) (fetchLine_withFrameCounter s n row)⟩
  | rbWrite data =>
    cases h
    exact ⟨n, congrArg (answer (.accepted (acceptedCount data s))) (ringWrite_withFrameCounter s n data)⟩
  | rbReadLine =>
    cases h
    exact ⟨n, congrArg (fun p : Option (List Byte) × State => answer (.line p.1) p.2) (ringReadLine_withFrameCounter s n)⟩

/-- Settles O46: who writes the counter is read off the step; that nothing reads it is the commutation above. -/
theorem frameCounterCountsCompletedFrames : Obligations.FrameCounterCountsCompletedFrames := by
  refine ⟨fun _ _ => step_frameCounter, fun s t h => ?_, fun _ _ _ n => exec_withFrameCounter n⟩
  obtain rfl := answer_eq_next_iff.1 h
  exact ringFlush_frameCounter s

end Sys2Proof.Machine
end

section
/-! The state right after reset (R48, R250): empty memories, every register 0, nothing pending. -/

namespace Sys2Proof.Machine

/-- The empty ring with both cursors at 0 meets the fill law (R40). -/
theorem powerOn_fillLaw (c : Config) : (State.powerOn c).FillLaw := ⟨Nat.zero_le _, Nat.zero_mod _⟩

/-- An empty ring has no unread byte (R49). -/
theorem powerOn_unreadWritten (c : Config) : (State.powerOn c).UnreadWritten := fun i hi => absurd hi (Nat.not_lt_zero i)

/-- Registers at 0 and no last row are in range, whatever their widths. -/
theorem powerOn_registersInRange (c : Config) : (State.powerOn c).RegistersInRange :=
  ⟨c.cntMod_pos, c.cntMod_pos, c.cntMod_pos, c.cntMod_pos, c.scanMod_pos, fun _ hrow => nomatch hrow⟩

/-- Settles O36: the laws of empty memories, of zero cursors and counters and of a clear flag, at the reset state. -/
theorem resetMeetsEveryLaw : Obligations.ResetMeetsEveryLaw := by
  refine ⟨rfl, fun c => ?_⟩
  obtain ⟨hwf, hmargins, hbound⟩ : (State.powerOn c).MemoryLaws := .of_mem_empty rfl
  obtain ⟨hcursors, haligned⟩ : (State.powerOn c).CursorLaws := .of_zero rfl rfl
  have hfill := powerOn_fillLaw c
  have hunread := powerOn_unreadWritten c
  exact ⟨hwf, hcursors, haligned, powerOn_registersInRange c, hfill, hunread, .of_zero rfl rfl rfl, .of_clear rfl,
    hmargins, hbound, .inl ⟨hfill, hunread⟩, fun _ htr => nomatch htr⟩

end Sys2Proof.Machine
end

section
/-! What a step sends and hands over (R61, R171, R192): the requests come from the flow check, the acknowledgement from
a completed frame, and the buffers from a visible line tick, which hands over as its last act. -/

namespace Sys2Proof.Machine

/-- A flow check sends nothing, or one request (R173). -/
theorem checkFlow_tx_cases (s : State) : (checkFlow s).tx = s.tx ∨ (checkFlow s).tx = s.tx ++ [s.cfg.cmdReq] := by
  rw [checkFlow_eq]
  exact (ite_eq_or_eq _ _ _).symm

/-- An acknowledgement is sent only where it is enabled (R176). -/
theorem sendAck_tx_cases (s : State) :
    (sendAck s).tx = s.tx ∨ (s.cfg.ackEnable = true ∧ (sendAck s).tx = s.tx ++ [s.cfg.ackByte]) := by
  rw [sendAck_tx]
  split
  · exact .inr ⟨‹_›, rfl⟩
  · exact .inl rfl

/-- A received block sends nothing, or one acknowledgement where it is enabled (R156). -/
theorem receiveBlock_tx_cases (data : List Byte) (s : State) :
    (receiveBlock data s).tx = s.tx ∨
      (s.cfg.ackEnable = true ∧ (receiveBlock data s).tx = s.tx ++ [s.cfg.ackByte]) := by
  rcases receiveBlock_cases data s with he | ⟨_, _, _, he⟩ | ⟨_, _, he⟩ | ⟨_, _, he⟩ | ⟨_, _, he⟩ <;> rw [he]
  · exact .inl rfl
  · exact .inl rfl
  · exact .inl rfl
  · exact sendAck_tx_cases (countFrame (flushTo .complete s))
  · exact .inl (acceptPayload_tx data s)

/-- Of the three things a fetch can do, only the last reaches the flow check (R186). -/
theorem fetchLine_tx_cases (row : Nat) (s : State) :
    (fetchLine row s).2.tx = s.tx ∨ (fetchLine row s).2.tx = s.tx ++ [s.cfg.cmdReq] := by
  rcases fetchLine_cases row s with ⟨_, he⟩ | ⟨_, _, he⟩ | ⟨_, _, he⟩ <;> rw [he]
  · exact .inl rfl
  · exact .inl rfl
  · exact checkFlow_tx_cases _

/-- A line tick sends what its fetch sends. -/
theorem tickLine_tx_cases (s : State) : (tickLine s).tx = s.tx ∨ (tickLine s).tx = s.tx ++ [s.cfg.cmdReq] := by
  rcases tickLine_cases s with ⟨_, he⟩ | ⟨_, he⟩ <;> rw [he]
  · exact .inl rfl
  · exact fetchLine_tx_cases _ _

/-- A received block hands no buffer over. -/
@[simp] theorem receiveBlock_out (data : List Byte) (s : State) : (receiveBlock data s).out = s.out := by
  rcases receiveBlock_cases data s with he | ⟨_, _, _, he⟩ | ⟨_, _, he⟩ | ⟨_, _, he⟩ | ⟨_, _, he⟩ <;> simp [he]

/-- A fetch by itself hands no buffer over (R186). -/
@[simp] theorem fetchLine_out (row : Nat) (s : State) : (fetchLine row s).2.out = s.out := by
  rcases fetchLine_cases row s with ⟨_, he⟩ | ⟨_, _, he⟩ | ⟨_, _, he⟩ <;> rw [he]
  rw [checkFlow_out]

/-- The buffer that is handed over is the whole of `line_buf` in index order (R34, R192). -/
theorem isLineBuffer_lineBuffer (s : State) : s.IsLineBuffer (lineBuffer s) :=
  ⟨lineBuffer_length s, fun _ hi => lineBuffer_getElem? s hi⟩

/-- A line tick hands over nothing while blanking, and `line_buf` as the tick leaves it otherwise (R189, R192). -/
theorem tickLine_out_cases (s : State) :
    (tickLine s).out = s.out ∨ ∃ buf, (tickLine s).out = s.out ++ [buf] ∧ (tickLine s).IsLineBuffer buf := by
  rcases tickLine_cases s with ⟨_, he⟩ | ⟨_, he⟩ <;> rw [he]
  · exact .inl rfl
  · exact .inr ⟨_, congrArg (· ++ [_]) (fetchLine_out _ _), isLineBuffer_lineBuffer _⟩

/-- What a step sends: nothing, one request, or one acknowledgement where it is enabled. -/
theorem step_tx_cases {s t : State} (h : step s = .next t) :
    t.tx = s.tx ∨ t.tx = s.tx ++ [s.cfg.cmdReq] ∨ (s.cfg.ackEnable = true ∧ t.tx = s.tx ++ [s.cfg.ackByte]) := by
  rcases step_cases h with ⟨_, rfl⟩ | ⟨tr, rest, _, h⟩
  · exact .inl rfl
  rcases h with ⟨_, rfl⟩ | ⟨data, _, rfl⟩ | ⟨_, rfl⟩ | ⟨_, rfl⟩ | ⟨row, _, _, rfl⟩ | ⟨_, rfl⟩ | ⟨_, rfl⟩
  · exact .inl rfl
  · exact (receiveBlock_tx_cases data s.dequeue).imp_right .inr
  · exact (tickLine_tx_cases s.dequeue).imp_right .inl
  · exact .inl rfl
  · exact (fetchLine_tx_cases row s.dequeue).imp_right .inl
  · exact (checkFlow_tx_cases s.dequeue).imp_right .inl
  · exact .inl rfl

/-- What a step hands over: nothing, or the whole `line_buf` of the state after it. -/
theorem step_out_cases {s t : State} (h : step s = .next t) :
    t.out = s.out ∨ ∃ buf, t.out = s.out ++ [buf] ∧ t.IsLineBuffer buf := by
  rcases step_cases h with ⟨_, rfl⟩ | ⟨tr, rest, _, h⟩
  · exact .inl rfl
  rcases h with ⟨_, rfl⟩ | ⟨data, _, rfl⟩ | ⟨_, rfl⟩ | ⟨_, rfl⟩ | ⟨row, _, _, rfl⟩ | ⟨_, rfl⟩ | ⟨_, rfl⟩
  · exact .inl rfl
  · exact .inl (receiveBlock_out data s.dequeue)
  · exact tickLine_out_cases s.dequeue
  · exact .inl rfl
  · exact .inl (fetchLine_out row s.dequeue)
  · exact .inl (checkFlow_out s.dequeue)
  · exact .inl rfl

/-- Settles O45: of the operations a step can run, each sends at most one byte, and only a line tick hands over. -/
theorem streamsOnlyGrowByOneItem : Obligations.StreamsOnlyGrowByOneItem :=
  fun _ _ h => ⟨step_tx_cases h, step_out_cases h⟩

end Sys2Proof.Machine
end

section
/-! What a step is (R72, R97, R251): the oldest pending transaction, decoded and run on the rest. -/

namespace Sys2Proof.Machine

/-- Taking the oldest transaction off leaves the others pending. -/
theorem State.dequeue_of_inputs_cons {s : State} {tr : Transaction} {rest : List Transaction}
    (hi : s.inputs = tr :: rest) : s.dequeue = { s with inputs := rest } := by
  rw [State.dequeue, hi, List.tail_cons]

/-- A step refuses, by the decoder's reason, a transaction that is no operation. -/
theorem step_of_decode_error {s : State} {tr : Transaction} {rest : List Transaction} {e : DecodeError}
    (hi : s.inputs = tr :: rest) (hd : decodeTransaction s.cfg tr = .error e) :
    step s = .refused (.noOperation e) := by
  simp [step, fetch, hi, hd]

/-- A row that does not fit the `SCAN_BITS` wires of its port is no operation (R45, R99). -/
theorem decodeTransaction_rowTooWide {c : Config} {row : Nat} (hrow : c.scanMod ≤ row) :
    decodeTransaction c (.getLine row) = .error (.rowTooWide row) :=
  if_neg hrow.not_gt

/-- Settles O30: the three cases of a step, by what the oldest pending transaction decodes to. -/
theorem stepRunsTheDecodedOperation : Obligations.StepRunsTheDecodedOperation := by
  refine fun s => ⟨step_of_inputs_nil, fun tr rest hi => ⟨fun i hd => ?_, ?_⟩⟩
  · rw [step_of_decode_ok hi hd, State.dequeue_of_inputs_cons hi]
  · rintro row rfl hrow
    exact step_of_decode_error hi (decodeTransaction_rowTooWide hrow)

end Sys2Proof.Machine
end

section
/-! Decode and encode agree (R91 to R94, R97, R98): the round trip in both directions, and the words of the table. -/

namespace Sys2Proof

/-- Settles O32: by the round trip of each operation. -/
theorem decodeOfEncodeIsTheOperation : Obligations.DecodeOfEncodeIsTheOperation := by
  intro c i
  suffices h : Laws.RoundTrip.Statement i from h c
  cases i with
  | cmdData => exact Laws.RoundTrip.cmdData
  | cmdEnd => exact Laws.RoundTrip.cmdEnd
  | cmdReq => exact Laws.RoundTrip.cmdReq
  | cmdIdle => exact Laws.RoundTrip.cmdIdle
  | cmdSof => exact Laws.RoundTrip.cmdSof
  | cmdUnknown code => exact Laws.RoundTrip.cmdUnknown code
  | rxEmpty => exact Laws.RoundTrip.rxEmpty
  | rxPayload data => exact Laws.RoundTrip.rxPayload data
  | txReq => exact Laws.RoundTrip.txReq
  | txAck => exact Laws.RoundTrip.txAck
  | init => exact Laws.RoundTrip.init
  | rxBlock data => exact Laws.RoundTrip.rxBlock data
  | lineTick => exact Laws.RoundTrip.lineTick
  | frameTick => exact Laws.RoundTrip.frameTick
  | getLine row => exact Laws.RoundTrip.getLine row
  | flowCheck => exact Laws.RoundTrip.flowCheck
  | getAvailableLines => exact Laws.RoundTrip.getAvailableLines
  | rbWrite data => exact Laws.RoundTrip.rbWrite data
  | rbReadLine => exact Laws.RoundTrip.rbReadLine
  | rbFlush => exact Laws.RoundTrip.rbFlush
  | txEmit b => exact Laws.RoundTrip.txEmit b

/-- `i` is a well-formed operation, and `e` is its encoding. -/
def IsEncodingOf (c : Config) (e : Encoded) (i : Instr) : Prop := encode c i = some e ∧ i.wellFormed c = true

/-- A byte is one of the five command parameters, or it is an unknown code and carried as such (R93, R150). -/
theorem decodeCommand_isEncodingOf (c : Config) (b : Byte) :
    IsEncodingOf c (.port (.rxBlock [b])) (decodeCommand c b) := by
  by_cases hmem : b ∈ c.commands
  · obtain ⟨hsof, hdata, hend, hreq, hidle⟩ := Laws.RoundTrip.decodeCommand_commands c
    simp only [Params.commands, List.mem_cons, List.not_mem_nil, or_false] at hmem
    rcases hmem with rfl | rfl | rfl | rfl | rfl
    · rw [hdata]; exact ⟨rfl, rfl⟩
    · rw [hend]; exact ⟨rfl, rfl⟩
    · rw [hreq]; exact ⟨rfl, rfl⟩
    · rw [hidle]; exact ⟨rfl, rfl⟩
    · rw [hsof]; exact ⟨rfl, rfl⟩
  · rw [Laws.RoundTrip.decodeCommand_unknown c hmem]
    exact ⟨rfl, by simpa [Instr.wellFormed] using hmem⟩

/-- A block encodes the operation it is classified as, by its length (R91, R100). -/
theorem decodeBlock_isEncodingOf (c : Config) :
    ∀ data : List Byte, IsEncodingOf c (.port (.rxBlock data)) (decodeBlock c data)
  | [] => ⟨rfl, rfl⟩
  | [b] => decodeCommand_isEncodingOf c b
  | _ :: _ :: _ => ⟨rfl, by simp [decodeBlock, Instr.wellFormed]⟩

/-- A transaction encodes the operation its port selects (R97). -/
theorem decodeTransaction_isEncodingOf {c : Config} {t : Transaction} {i : Instr}
    (h : decodeTransaction c t = .ok i) : IsEncodingOf c (.port t) i := by
  cases t with
  | rxBlock data => cases h; exact decodeBlock_isEncodingOf c data
  | getLine row =>
    rw [decodeTransaction] at h
    split at h
    · cases h; exact ⟨rfl, decide_eq_true ‹_›⟩
    · cases h
  | init | lineTick | frameTick | pollTick | availLines => cases h; exact ⟨rfl, rfl⟩

/-- A byte the host reads as a transmitted code encodes that code (R92, R94). -/
theorem decodeTx_isEncodingOf {c : Config} {b : Byte} {i : Instr} (h : decodeTx c b = .ok i) :
    IsEncodingOf c (.tx b) i := by
  unfold decodeTx at h
  split at h
  · subst b; cases h; exact ⟨rfl, rfl⟩
  · split at h
    · subst b; cases h; exact ⟨rfl, rfl⟩
    · cases h

/-- Exactly the four internal primitives have no encoding (R98). -/
theorem encode_eq_none_iff (c : Config) (i : Instr) :
    encode c i = none ↔ (∃ data, i = .rbWrite data) ∨ i = .rbReadLine ∨ i = .rbFlush ∨ ∃ b, i = .txEmit b := by
  cases i <;> simp [encode]

/-- Settles O33: what arrives on a port and what is sent are decoded apart. -/
theorem encodeOfDecodeIsTheEncoding : Obligations.EncodeOfDecodeIsTheEncoding := by
  refine ⟨fun c e i h => ?_, encode_eq_none_iff⟩
  cases e with
  | port t => exact decodeTransaction_isEncodingOf h
  | tx b => exact decodeTx_isEncodingOf h

/-- A word of eight bits is the block of one byte, and so a command (R91; notes/assumptions/12.md). -/
theorem decodeTableWord_eight (w : Nat) :
    decodeTableWord 8 w = some (decodeCommand Config.ref (BitVec.ofNat 8 w)) := rfl

/-- Settles O31: the five commands by their parameters, 77 by being none of them, and the rest by the block's length. -/
theorem sampleBlocksDecodeAsTheTableSays : Obligations.SampleBlocksDecodeAsTheTableSays := by
  obtain ⟨hsof, hdata, hend, hreq, hidle⟩ := Laws.RoundTrip.decodeCommand_commands Config.ref
  refine ⟨?_, ?_, ?_, ?_, ?_, ?_, rfl, rfl⟩ <;> rw [decodeTableWord_eight]
  · exact congrArg some hdata
  · exact congrArg some hend
  · exact congrArg some hreq
  · exact congrArg some hidle
  · exact congrArg some hsof
  · exact congrArg some (Laws.RoundTrip.decodeCommand_unknown Config.ref (by decide))

end Sys2Proof
end

section
/-! Where a payload is cut (R107): two payload blocks in a row write, count and clear what their concatenation does,
as long as the counter `avail` does not wrap. -/

namespace Sys2Proof.Machine

/-- A write of up to `len` bytes leaves `avail` below the modulus of its counter: the policy is `Drop` with `avail` in
its range, or there is room for `len` more in the counter. -/
def State.CountsWithoutWrap (s : State) (len : Nat) : Prop :=
  (s.cfg.overflowPolicy = .drop ∧ s.avail ≤ s.cfg.C) ∨ s.avail + len < s.cfg.cntMod

/-- A shorter write counts without a wrap as well. -/
theorem State.CountsWithoutWrap.mono {s : State} {m n : Nat} (h : s.CountsWithoutWrap n) (hmn : m ≤ n) :
    s.CountsWithoutWrap m :=
  h.imp_right (Nat.add_le_add_left hmn _).trans_lt

/-- The bytes of a block that its write accepts (R121). -/
def acceptedBytes (data : List Byte) (s : State) : List Byte := data.take (acceptedCount data s)

@[simp] theorem acceptedBytes_length (data : List Byte) (s : State) :
    (acceptedBytes data s).length = acceptedCount data s :=
  List.length_take_of_le (acceptedCount_le data s)

/-- Under `Drop` the bytes that fit are accepted, the rest is cut off (R122). -/
theorem acceptedBytes_of_drop {s : State} (h : s.cfg.overflowPolicy = .drop) (data : List Byte) :
    acceptedBytes data s = data.take (s.cfg.C - s.avail) := by
  simp only [acceptedBytes, acceptedCount, h, free]
  rw [min_comm, ← List.take_eq_take_min]

/-- Under `Unguarded` every byte is accepted (R123). -/
theorem acceptedBytes_of_unguarded {s : State} (h : s.cfg.overflowPolicy = .unguarded) (data : List Byte) :
    acceptedBytes data s = data := by
  simp only [acceptedBytes, acceptedCount, h, List.take_length]

/-- What a payload does with the bytes it accepts, `data` being those: they are written, and counted (R121, R151). -/
def storeAll (data : List Byte) (s : State) : State :=
  { s with
    mem := memWrite s.cfg s.wc 0 data s.mem
    wc := advance s.cfg s.wc data.length
    avail := raise s.cfg s.avail data.length
    received := raise s.cfg s.received data.length
    reqOutstanding := if s.cfg.T < raise s.cfg s.avail data.length then false else s.reqOutstanding }

/-- A payload in reception stores the bytes it accepts, and nothing else. -/
theorem acceptPayload_eq_storeAll (data : List Byte) (s : State) :
    acceptPayload data s = storeAll (acceptedBytes data s) s := by
  rw [acceptPayload, ringWrite_eq, storeAll, acceptedBytes_length, acceptedBytes]

theorem advance_advance (c : Config) (x m n : Nat) : advance c (advance c x m) n = advance c x (m + n) := by
  rw [advance, advance, advance, Nat.mod_add_mod, Nat.add_assoc]

theorem raise_raise (c : Config) (x m n : Nat) : raise c (raise c x m) n = raise c x (m + n) := by
  rw [raise, raise, raise, Nat.mod_add_mod, Nat.add_assoc]

/-- Without a wrap `avail` only grows, so that a flag the first store clears is cleared by the whole store too. -/
theorem storeAll_append {s : State} {a b : List Byte} (h : s.avail + (a ++ b).length < s.cfg.cntMod) :
    storeAll b (storeAll a s) = storeAll (a ++ b) s := by
  rw [List.length_append] at h
  have hgrows : raise s.cfg s.avail a.length ≤ raise s.cfg s.avail (a.length + b.length) := by
    rw [raise, raise, Nat.mod_eq_of_lt h, Nat.mod_eq_of_lt (by omega)]
    omega
  have hflag (x : Bool) : (if s.cfg.T < raise s.cfg s.avail (a.length + b.length) then false
      else if s.cfg.T < raise s.cfg s.avail a.length then false else x) =
      if s.cfg.T < raise s.cfg s.avail (a.length + b.length) then false else x := by
    split
    · rfl
    · exact if_neg (by omega)
  simp only [storeAll, memWrite_advance, memWrite_append, advance_advance, raise_raise, List.length_append, hflag,
    Nat.zero_add, Nat.add_zero]

/-- Under `Drop` the accepted bytes fit the ring, and its capacity is below the modulus of the counter (R9). -/
theorem avail_add_acceptedCount_lt {s : State} {data : List Byte} (h : s.CountsWithoutWrap data.length) :
    s.avail + acceptedCount data s < s.cfg.cntMod := by
  rcases h with ⟨hdrop, hle⟩ | hlt
  · have hC := s.cfg.C_lt_cntMod
    have hfit := congrArg List.length (acceptedBytes_of_drop hdrop data)
    rw [acceptedBytes_length, List.length_take] at hfit
    omega
  · exact (Nat.add_le_add_left (acceptedCount_le data s) _).trans_lt hlt

/-- The two blocks together are accepted as far as their concatenation: one that is cut off leaves no room for the
next. -/
theorem acceptedBytes_append {s : State} {a : List Byte} (b : List Byte) (h : s.CountsWithoutWrap a.length) :
    acceptedBytes (a ++ b) s = acceptedBytes a s ++ acceptedBytes b (acceptPayload a s) := by
  have hpolicy : (acceptPayload a s).cfg.overflowPolicy = s.cfg.overflowPolicy := by rw [acceptPayload_cfg]
  cases hp : s.cfg.overflowPolicy with
  | drop =>
    have havail : (acceptPayload a s).avail = s.avail + (acceptedBytes a s).length := by
      rw [acceptPayload_avail, acceptedBytes_length]
      exact Nat.mod_eq_of_lt (avail_add_acceptedCount_lt h)
    have hroom : s.cfg.C - (acceptPayload a s).avail = s.cfg.C - s.avail - a.length := by
      rw [havail, acceptedBytes_of_drop hp, List.length_take]
      omega
    rw [acceptedBytes_of_drop (hpolicy.trans hp), acceptPayload_cfg, hroom, acceptedBytes_of_drop hp,
      acceptedBytes_of_drop hp, List.take_append]
  | unguarded =>
    rw [acceptedBytes_of_unguarded (hpolicy.trans hp), acceptedBytes_of_unguarded hp, acceptedBytes_of_unguarded hp]

/-- Two payloads in reception are one (R107). -/
theorem acceptPayload_append {s : State} {a b : List Byte} (h : s.CountsWithoutWrap (a ++ b).length) :
    acceptPayload b (acceptPayload a s) = acceptPayload (a ++ b) s := by
  have hbytes := acceptedBytes_append b (h.mono (List.length_append ▸ Nat.le_add_right _ _))
  have hlt := avail_add_acceptedCount_lt h
  rw [← acceptedBytes_length, hbytes] at hlt
  rw [acceptPayload_eq_storeAll b, acceptPayload_eq_storeAll (a ++ b), hbytes, ← storeAll_append hlt,
    ← acceptPayload_eq_storeAll a]

theorem payload_of_receiving {s : State} (h : s.st = .receiving) (data : List Byte) :
    payload data s = acceptPayload data s := by
  rw [payload, h]

theorem payload_of_not_receiving {s : State} (h : s.st ≠ .receiving) (data : List Byte) : payload data s = s := by
  unfold payload
  split
  · rfl
  · contradiction
  · rfl

/-- In reception the two blocks are one write; outside it both are discarded (R154). -/
theorem payload_append {s : State} {a b : List Byte} (h : s.CountsWithoutWrap (a ++ b).length) :
    payload b (payload a s) = payload (a ++ b) s := by
  by_cases hst : s.st = .receiving
  · rw [payload_of_receiving hst, payload_of_receiving hst, payload_of_receiving (by simpa using hst),
      acceptPayload_append h]
  · rw [payload_of_not_receiving hst, payload_of_not_receiving hst, payload_of_not_receiving hst]

/-- A payload does not read the result of the operation before it (R31). -/
theorem payload_setResult (r : Result) (data : List Byte) (s : State) :
    payload data (setResult r s) = setResult r (payload data s) := by
  by_cases hst : s.st = .receiving
  · rw [payload_of_receiving hst, payload_of_receiving (by simpa using hst), acceptPayload_eq_storeAll,
      acceptPayload_eq_storeAll]
    rfl
  · rw [payload_of_not_receiving hst, payload_of_not_receiving (by simpa using hst)]

/-- Settles O10: the premise says that the counter does not wrap. -/
theorem payloadCutsDoNotMatter : Obligations.PayloadCutsDoNotMatter := by
  intro s t a b _ _ hcount hexec
  cases hexec
  show answer .none (payload b (setResult .none (payload a s))) = answer .none (payload (a ++ b) s)
  rw [payload_setResult, payload_append hcount]
  rfl

end Sys2Proof.Machine
end

section
/-! The expansion of `FRAME` (R110, R111), and that over a whole frame it meets the wire grammar (R108). -/

namespace Sys2Proof.Machine

/-- The cut of R111: blocks of `k` bytes, then a last block of 2 to `k + 1` bytes. -/
inductive IsCut (k : Nat) : List Byte → List (List Byte) → Prop where
  | last {b : List Byte} (hlow : 2 ≤ b.length) (hhigh : b.length ≤ k + 1) : IsCut k b [b]
  | cons {b rest : List Byte} {blocks : List (List Byte)} (hb : b.length = k) (hrest : IsCut k rest blocks) :
    IsCut k (b ++ rest) (b :: blocks)

/-- Up to `k + 1` bytes, and at least one, are one block. -/
theorem cutBlocks_of_le (fuel k : Nat) {bytes : List Byte} (hne : bytes ≠ []) (h : bytes.length ≤ k + 1) :
    cutBlocks (fuel + 1) k bytes = [bytes] := by
  cases bytes with
  | nil => exact absurd rfl hne
  | cons x xs => rw [cutBlocks, if_pos h]

/-- From more than `k + 1` bytes the first `k` are cut off. -/
theorem cutBlocks_of_gt (fuel : Nat) {k : Nat} {bytes : List Byte} (h : k + 1 < bytes.length) :
    cutBlocks (fuel + 1) k bytes = bytes.take k :: cutBlocks fuel k (bytes.drop k) := by
  cases bytes with
  | nil => exact absurd h (Nat.not_lt_zero _)
  | cons x xs => rw [cutBlocks, if_neg h.not_ge]

/-- `cutBlocks` cuts as R111 says, when its first argument bounds nothing. -/
theorem isCut_cutBlocks {k : Nat} (hk : 0 < k) :
    ∀ (fuel : Nat) {bytes : List Byte}, 2 ≤ bytes.length → bytes.length ≤ fuel → IsCut k bytes (cutBlocks fuel k bytes)
  | 0, _, hlow, hfuel => absurd (hlow.trans hfuel) (by decide)
  | fuel + 1, bytes, hlow, hfuel => by
    by_cases hlen : bytes.length ≤ k + 1
    · rw [cutBlocks_of_le fuel k (List.ne_nil_of_length_pos (by omega)) hlen]
      exact .last hlow hlen
    · have hrest : IsCut k (bytes.drop k) (cutBlocks fuel k (bytes.drop k)) :=
        isCut_cutBlocks hk fuel (by rw [List.length_drop]; omega) (by rw [List.length_drop]; omega)
      have hcut := IsCut.cons (List.length_take_of_le (by omega : k ≤ bytes.length)) hrest
      rwa [List.take_append_drop, ← cutBlocks_of_gt fuel (by omega)] at hcut

section
variable {k : Nat} {bytes : List Byte} {blocks : List (List Byte)}

theorem IsCut.ne_nil (h : IsCut k bytes blocks) : blocks ≠ [] := by
  cases h <;> exact List.cons_ne_nil _ _

theorem IsCut.flatten_eq (h : IsCut k bytes blocks) : blocks.flatten = bytes := by
  induction h with
  | last => simp
  | cons _ _ ih => rw [List.flatten_cons, ih]

theorem IsCut.length_of_mem_dropLast (h : IsCut k bytes blocks) : ∀ b ∈ blocks.dropLast, b.length = k := by
  induction h with
  | last => simp
  | cons hb hrest ih =>
    rw [List.dropLast_cons_of_ne_nil hrest.ne_nil]
    exact List.forall_mem_cons.2 ⟨hb, ih⟩

theorem IsCut.length_of_getLast? (h : IsCut k bytes blocks) :
    ∀ b, blocks.getLast? = some b → 2 ≤ b.length ∧ b.length ≤ k + 1 := by
  induction h with
  | last hlow hhigh => rintro b ⟨⟩; exact ⟨hlow, hhigh⟩
  | cons _ hrest ih =>
    rw [List.getLast?_cons_of_ne_nil hrest.ne_nil]
    exact ih

/-- Every block of the cut is payload in format (R91). -/
theorem IsCut.isPayload_of_mem (h : IsCut k bytes blocks) (hk : 2 ≤ k) : ∀ b ∈ blocks, isPayload b = true := by
  induction h with
  | last hlow _ => exact List.forall_mem_singleton.2 (decide_eq_true hlow)
  | cons hb _ ih => exact List.forall_mem_cons.2 ⟨decide_eq_true (hb.symm ▸ hk), ih⟩

end

/-- Payload blocks alone, as many bytes as a frame has, are the body of a frame (R108). -/
theorem wellFormedBody_of_isPayload {c : Config} {blocks : List (List Byte)} (hne : blocks ≠ [])
    (hpayload : ∀ b ∈ blocks, isPayload b = true) (hlen : blocks.flatten.length = c.frameSize) :
    wellFormedBody c blocks = true := by
  have hhead : blocks.head?.any isPayload = true := by
    rw [List.head?_eq_some_head hne]
    exact hpayload _ (List.head_mem hne)
  have hlast : blocks.getLast?.any isPayload = true := by
    rw [List.getLast?_eq_some_getLast hne]
    exact hpayload _ (List.getLast_mem hne)
  have hall : (blocks.all fun b => isPayload b || decide (b = [c.cmdData])) = true :=
    List.all_eq_true.2 fun b hb => by rw [hpayload b hb, Bool.true_or]
  have hfilter : blocks.filter isPayload = blocks := List.filter_eq_self.2 hpayload
  rw [wellFormedBody, hhead, hlast, hall, hfilter, hlen, decide_eq_true rfl]
  rfl

/-- A body between the data marker and the frame-end marker is a frame (R108): the data marker is no start-of-frame
marker (R9). -/
theorem wellFormedFrame_of_body {c : Config} {blocks : List (List Byte)} (h : wellFormedBody c blocks = true) :
    wellFormedFrame c ([c.cmdData] :: blocks ++ [[c.cmdEnd]]) = true := by
  obtain ⟨-, -, -, hsof, -⟩ := c.commands_distinct
  simp [wellFormedFrame, hsof, h]

/-- Settles O35: the blocks are the cut of the bytes. -/
theorem frameExpansionIsAWellFormedFrame : Obligations.FrameExpansionIsAWellFormedFrame := by
  intro c bytes k hk hlen
  have hcut : IsCut k bytes (cutBlocks bytes.length k bytes) := isCut_cutBlocks (by omega) _ hlen le_rfl
  refine ⟨cutBlocks bytes.length k bytes, ?_, hcut.flatten_eq, hcut.length_of_mem_dropLast,
    hcut.length_of_getLast?, fun hframe => ?_⟩
  · simp [frameTrace, frameBlocks]
  · exact wellFormedFrame_of_body
      (wellFormedBody_of_isPayload hcut.ne_nil (hcut.isPayload_of_mem hk) (hcut.flatten_eq.symm ▸ hframe))

end Sys2Proof.Machine
end

section
/-! The ring's contents under its three operations (R40, R43, R49, R121, R124, R126): a write appends the bytes it
accepts to the unread ones, a line taken removes the oldest `W`, a flush removes all. What the laws of the ring read of
a state is its parameters, `storage`, the two cursors and `avail`. -/

namespace Sys2Proof.Machine

/-! ## Indices -/

/-- Byte `i` from an advanced cursor is byte `n + i` from the cursor (R14, R127). -/
theorem ringIndex_advance (c : Config) (a n i : Nat) : ringIndex c (advance c a n) i = ringIndex c a (n + i) := by
  rw [ringIndex, advance, ringIndex, Nat.mod_add_mod, Nat.add_assoc]

/-- From any cursor the `C` byte numbers reach every index of `storage`. -/
theorem exists_ringIndex_eq (c : Config) (a : Nat) {x : Nat} (hx : x < c.C) : ∃ i < c.C, ringIndex c a i = x := by
  have ha : a % c.C < c.C := Nat.mod_lt _ c.C_pos
  refine ⟨(x + (c.C - a % c.C)) % c.C, Nat.mod_lt _ c.C_pos, ?_⟩
  calc ringIndex c a ((x + (c.C - a % c.C)) % c.C)
      = (a % c.C + (x + (c.C - a % c.C))) % c.C := by rw [ringIndex, Nat.add_mod_mod, Nat.mod_add_mod]
    _ = (x + c.C) % c.C := by congr 1; omega
    _ = x := by rw [Nat.add_mod_right, Nat.mod_eq_of_lt hx]

/-- Under the fill law the write cursor is the read cursor, past the unread bytes (R40). -/
theorem State.FillLaw.ringIndex_wc {s : State} (h : s.FillLaw) (i : Nat) :
    ringIndex s.cfg s.wc i = ringIndex s.cfg s.rc (s.avail + i) := by
  rw [← h.2]
  exact ringIndex_advance s.cfg s.rc s.avail i

/-! ## The bytes a write accepts and stores -/

/-- The model accepts the number of bytes that R121 gives. -/
theorem acceptedCount_of_accepts {s : State} {data : List Byte} {n : Nat} (h : s.Accepts data.length n) :
    acceptedCount data s = n := by
  rcases h with ⟨hp, _, rfl⟩ | ⟨hp, rfl⟩ <;> rcases acceptedCount_cases data s with ⟨hp', he⟩ | ⟨hp', he⟩
  · exact he
  · simp [hp] at hp'
  · simp [hp] at hp'
  · exact he

/-- The last byte that lands on an index is the one it holds after a ring write (R14, R121). -/
theorem ringWrite_read_at {data : List Byte} {s : State} {i : Nat} (hi : i < acceptedCount data s)
    (hlast : acceptedCount data s ≤ i + s.cfg.C) :
    (ringWrite data s).mem.read .storage (ringIndex s.cfg s.wc i) = data[i]? := by
  have hlen := acceptedBytes_length data s
  have hat := memWrite_read_at s.cfg s.wc (acceptedBytes data s) 0 s.mem i (hlen ▸ hi) fun j hij hj => by
    simpa using ringIndex_ne hij (by omega)
  rw [ringWrite_mem]
  simpa [acceptedBytes, hi] using hat

/-- An index on which no accepted byte lands keeps its byte. -/
theorem ringWrite_read_outside {data : List Byte} {s : State} {a : Nat}
    (h : ∀ i < acceptedCount data s, ringIndex s.cfg s.wc i ≠ a) :
    (ringWrite data s).mem.read .storage a = s.mem.read .storage a := by
  rw [ringWrite_mem]
  refine memWrite_read_outside s.cfg s.wc (acceptedBytes data s) 0 s.mem a fun i hi => ?_
  rw [Nat.zero_add]
  exact h i (acceptedBytes_length data s ▸ hi)

/-- A ring write takes no value away. -/
theorem ringWrite_keeps_written {data : List Byte} {s : State} {a : Nat} (h : s.Written a) :
    (ringWrite data s).Written a := by
  rw [State.Written, ringWrite_mem]
  exact memWrite_keeps_written _ _ _ _ _ _ h

/-- Every accepted byte lands on an index that is written after it. -/
theorem ringWrite_written {data : List Byte} {s : State} {i : Nat} (hi : i < acceptedCount data s) :
    (ringWrite data s).Written (ringIndex s.cfg s.wc i) := by
  have h := memWrite_written s.cfg s.wc (acceptedBytes data s) 0 s.mem i (acceptedBytes_length data s ▸ hi)
  rw [State.Written, ringWrite_mem]
  rwa [Nat.zero_add] at h

/-- The accepted bytes fit the free space: no overrun (R223). -/
def State.HasRoomFor (s : State) (data : List Byte) : Prop := s.avail + acceptedCount data s ≤ s.cfg.C

/-- Under `Drop` no more is accepted than fits (R122). -/
theorem State.HasRoomFor.of_drop {s : State} (hp : s.cfg.overflowPolicy = .drop) (h : s.avail ≤ s.cfg.C)
    (data : List Byte) : s.HasRoomFor data := by
  rcases acceptedCount_cases data s with ⟨-, he⟩ | ⟨hp', -⟩
  · rw [State.HasRoomFor, he]
    omega
  · simp [hp] at hp'

/-- A payload in reception that is no unguarded overrun is accepted as far as it fits (R40). -/
theorem State.NoOverrunNext.hasRoomFor {s : State} {data : List Byte} (h : s.NoOverrunNext) (hle : s.avail ≤ s.cfg.C)
    (hp : s.ReceivesPayload data) : s.HasRoomFor data := by
  rcases h with hdrop | hover
  · exact .of_drop hdrop hle data
  · obtain ⟨hhead, hlen, hst⟩ := hp
    have hfree : data.length ≤ free s := by simpa [overrun, hlen, hst] using hover data hhead
    have hcount := acceptedCount_le data s
    rw [free] at hfree
    rw [State.HasRoomFor]
    omega

/-- With room the counter does not wrap, since its modulus is above the capacity (R9). -/
theorem ringWrite_avail_of_room {s : State} {data : List Byte} (h : s.HasRoomFor data) :
    (ringWrite data s).avail = s.avail + acceptedCount data s := by
  rw [ringWrite_avail]
  exact Nat.mod_eq_of_lt (h.trans_lt s.cfg.C_lt_cntMod)

/-! ## The fill law and the unread bytes -/

/-- Two states with the same ring: nothing that the laws of the ring read has changed. -/
def SameRing (s t : State) : Prop :=
  t.cfg = s.cfg ∧ (∀ a, t.mem.read .storage a = s.mem.read .storage a) ∧ t.wc = s.wc ∧ t.rc = s.rc ∧ t.avail = s.avail

theorem SameRing.refl (s : State) : SameRing s s := ⟨rfl, fun _ => rfl, rfl, rfl, rfl⟩

theorem SameRing.of_mem_eq {s t : State} (hcfg : t.cfg = s.cfg) (hmem : t.mem = s.mem) (hwc : t.wc = s.wc)
    (hrc : t.rc = s.rc) (havail : t.avail = s.avail) : SameRing s t :=
  ⟨hcfg, fun _ => by rw [hmem], hwc, hrc, havail⟩

theorem sendAck_sameRing (s : State) : SameRing s (sendAck s) :=
  .of_mem_eq (sendAck_cfg s) (sendAck_mem s) (sendAck_wc s) (sendAck_rc s) (sendAck_avail s)

theorem checkFlow_sameRing (s : State) : SameRing s (checkFlow s) :=
  .of_mem_eq (checkFlow_cfg s) (checkFlow_mem s) (checkFlow_wc s) (checkFlow_rc s) (checkFlow_avail s)

/-- The ring of `t` is that of `s` with the oldest line taken, and the line stands in `line_buf` (R124, R186). -/
def LineTaken (s t : State) : Prop :=
  t.cfg = s.cfg ∧ t.mem = lineWrite s.cfg 0 (memRead s s.rc s.cfg.W) s.mem ∧ t.wc = s.wc ∧
    t.rc = advance s.cfg s.rc s.cfg.W ∧ t.avail = s.avail - s.cfg.W

theorem LineTaken.storage {s t : State} (h : LineTaken s t) (a : Nat) :
    t.mem.read .storage a = s.mem.read .storage a := by
  obtain ⟨-, hmem, -, -, -⟩ := h
  rw [hmem, lineWrite_read_storage]

theorem State.FillLaw.of_sameRing {s t : State} (h : s.FillLaw) (hr : SameRing s t) : t.FillLaw := by
  obtain ⟨hcfg, -, hwc, hrc, havail⟩ := hr
  unfold State.FillLaw
  rw [hcfg, hwc, hrc, havail]
  exact h

/-- The empty ring with both cursors at 0, as a flush and reset leave it, meets the fill law. -/
theorem State.FillLaw.of_zero {s : State} (hwc : s.wc = 0) (hrc : s.rc = 0) (havail : s.avail = 0) : s.FillLaw := by
  simp [State.FillLaw, hwc, hrc, havail]

/-- A line taken moves the read cursor forward by what it takes from `avail`. -/
theorem State.FillLaw.of_lineTaken {s t : State} (h : s.FillLaw) (hle : s.cfg.W ≤ s.avail) (hl : LineTaken s t) :
    t.FillLaw := by
  obtain ⟨hcap, hfill⟩ := h
  obtain ⟨hcfg, -, hwc, hrc, havail⟩ := hl
  unfold State.FillLaw
  rw [hcfg, hwc, hrc, havail]
  refine ⟨(Nat.sub_le _ _).trans hcap, ?_⟩
  rw [advance, Nat.mod_add_mod, Nat.add_assoc, Nat.add_sub_cancel' hle, hfill]

/-- A write with room moves the write cursor forward by what it adds to `avail`. -/
theorem ringWrite_keeps_fillLaw {s : State} {data : List Byte} (h : s.FillLaw) (hroom : s.HasRoomFor data) :
    (ringWrite data s).FillLaw := by
  refine ⟨?_, ?_⟩
  · rw [ringWrite_avail_of_room hroom, ringWrite_cfg]
    exact hroom
  · rw [ringWrite_avail_of_room hroom, ringWrite_cfg, ringWrite_rc, ringWrite_wc]
    exact (h.ringIndex_wc _).symm

theorem State.unread_of_avail_zero {s : State} (h : s.avail = 0) : s.unread = [] := by
  rw [State.unread, h, List.range_zero, List.map_nil]

theorem SameRing.unread_eq {s t : State} (h : SameRing s t) : t.unread = s.unread := by
  obtain ⟨hcfg, hstorage, -, hrc, havail⟩ := h
  simp only [State.unread, hcfg, hstorage, hrc, havail]

/-- A line taken is the oldest `W` of the unread bytes (R43, R124). -/
theorem LineTaken.unread_eq {s t : State} (h : LineTaken s t) : t.unread = s.unread.drop s.cfg.W := by
  have hstorage := h.storage
  obtain ⟨hcfg, -, -, hrc, havail⟩ := h
  simp only [State.unread, hcfg, hstorage, hrc, havail, ringIndex_advance]
  exact List.ext_getElem (by simp) fun i _ _ => by simp

/-- A write with room appends the accepted bytes to the unread ones, and overwrites none of them (R43, R121). -/
theorem unread_ringWrite {s : State} {data : List Byte} (h : s.FillLaw) (hroom : s.HasRoomFor data) :
    (ringWrite data s).unread = s.unread ++ (acceptedBytes data s).map some := by
  have hroom' : s.avail + acceptedCount data s ≤ s.cfg.C := hroom
  have hold : ∀ i < s.avail, (ringWrite data s).mem.read .storage (ringIndex s.cfg s.rc i) =
      s.mem.read .storage (ringIndex s.cfg s.rc i) := by
    intro i hi
    refine ringWrite_read_outside fun k hk => ?_
    rw [h.ringIndex_wc]
    exact (ringIndex_ne (by omega) (by omega)).symm
  have hnew : ∀ k < acceptedCount data s,
      (ringWrite data s).mem.read .storage (ringIndex s.cfg s.rc (s.avail + k)) = data[k]? := by
    intro k hk
    rw [← h.ringIndex_wc]
    exact ringWrite_read_at hk (by omega)
  rw [State.unread, ringWrite_avail_of_room hroom, ringWrite_cfg, ringWrite_rc, List.range_add, List.map_append,
    List.map_map]
  congr 1
  · exact List.map_congr_left fun i hi => hold i (List.mem_range.1 hi)
  · refine List.ext_getElem (by simp) fun k hk _ => ?_
    have hk : k < acceptedCount data s := by simpa using hk
    have hlen := acceptedCount_le data s
    rw [List.getElem_map, List.getElem_range, Function.comp_apply, hnew k hk, List.getElem_map,
      List.getElem?_eq_getElem (by omega)]
    simp [acceptedBytes]

/-! ## Written bytes -/

/-- That the unread bytes have been written is a statement about the bytes alone. -/
theorem State.unreadWritten_iff (s : State) : s.UnreadWritten ↔ ∀ x ∈ s.unread, x.isSome := by
  simp [State.UnreadWritten, State.unread, State.Written]

/-- Bytes that were all unread before have all been written. -/
theorem State.UnreadWritten.of_subset {s t : State} (h : s.UnreadWritten) (hsub : t.unread ⊆ s.unread) :
    t.UnreadWritten :=
  (State.unreadWritten_iff t).2 fun x hx => (State.unreadWritten_iff s).1 h x (hsub hx)

/-- The bytes that a write appends hold values. -/
theorem ringWrite_keeps_unreadWritten {s : State} {data : List Byte} (hfill : s.FillLaw) (h : s.UnreadWritten)
    (hroom : s.HasRoomFor data) : (ringWrite data s).UnreadWritten := by
  rw [State.unreadWritten_iff, unread_ringWrite hfill hroom]
  intro x hx
  rcases List.mem_append.1 hx with hold | hnew
  · exact (State.unreadWritten_iff s).1 h x hold
  · obtain ⟨b, -, rfl⟩ := List.mem_map.1 hnew
    rfl

/-- The line taken stands in the image window, byte for byte (R186). -/
theorem LineTaken.window_eq {s t : State} (h : LineTaken s t) (hwf : s.mem.wf) (hle : s.cfg.W ≤ s.avail)
    (hw : s.UnreadWritten) :
    (List.range s.cfg.W).map (fun i => t.mem.read .lineBuf (lineIndex s.cfg i)) = s.unread.take s.cfg.W := by
  obtain ⟨-, hmem, -, -, -⟩ := h
  rw [State.unread, ← List.map_take, List.take_range, min_eq_left hle]
  refine List.map_congr_left fun i hi => ?_
  have hi : i < s.cfg.W := List.mem_range.1 hi
  obtain ⟨b, hb⟩ := Option.isSome_iff_exists.1 (hw i (hi.trans_le hle))
  have hat := lineWrite_read_at s.cfg (memRead s s.rc s.cfg.W) 0 hwf i (by simpa using hi)
  rw [hmem, hb, ← memRead_getElem? s s.rc hi hb, ← hat, Nat.zero_add]

/-- An overrun covers the whole of `storage`: the unread bytes and the accepted ones are `C` or more in a row. -/
theorem written_of_overrun {s : State} {data : List Byte} (hfill : s.FillLaw) (hw : s.UnreadWritten)
    (hover : ¬s.HasRoomFor data) {a : Nat} (ha : a < s.cfg.C) : (ringWrite data s).Written a := by
  obtain ⟨i, hi, rfl⟩ := exists_ringIndex_eq s.cfg s.rc ha
  by_cases hold : i < s.avail
  · exact ringWrite_keeps_written (hw i hold)
  · have hcover : i - s.avail < acceptedCount data s := by
      rw [State.HasRoomFor] at hover
      omega
    have hnew := ringWrite_written hcover
    rwa [hfill.ringIndex_wc, Nat.add_sub_cancel' (not_lt.1 hold)] at hnew

/-- R49: a write without an overrun keeps the unread bytes written, and one with an overrun writes every index. -/
theorem ringWrite_keeps_writtenLaw {s : State} (data : List Byte) (h : s.WrittenLaw) :
    (ringWrite data s).WrittenLaw := by
  rcases h with ⟨hfill, hw⟩ | hall
  · by_cases hroom : s.HasRoomFor data
    · exact .inl ⟨ringWrite_keeps_fillLaw hfill hroom, ringWrite_keeps_unreadWritten hfill hw hroom⟩
    · exact .inr fun a ha => written_of_overrun hfill hw hroom (ringWrite_cfg data s ▸ ha)
  · exact .inr fun a ha => ringWrite_keeps_written (hall a (ringWrite_cfg data s ▸ ha))

theorem State.WrittenLaw.of_sameRing {s t : State} (h : s.WrittenLaw) (hr : SameRing s t) : t.WrittenLaw := by
  rcases h with ⟨hfill, hw⟩ | hall
  · exact .inl ⟨hfill.of_sameRing hr, hw.of_subset fun _ hx => hr.unread_eq ▸ hx⟩
  · obtain ⟨hcfg, hstorage, -, -, -⟩ := hr
    refine .inr fun a ha => ?_
    rw [State.Written, hstorage]
    exact hall a (hcfg ▸ ha)

/-- A line taken leaves fewer unread bytes, and `storage` as it was. -/
theorem State.WrittenLaw.of_lineTaken {s t : State} (h : s.WrittenLaw) (hle : s.cfg.W ≤ s.avail) (hl : LineTaken s t) :
    t.WrittenLaw := by
  rcases h with ⟨hfill, hw⟩ | hall
  · refine .inl ⟨hfill.of_lineTaken hle hl, hw.of_subset ?_⟩
    rw [hl.unread_eq]
    exact List.drop_subset _ _
  · have hstorage := hl.storage
    obtain ⟨hcfg, -, -, -, -⟩ := hl
    refine .inr fun a ha => ?_
    rw [State.Written, hstorage]
    exact hall a (hcfg ▸ ha)

/-- The empty ring meets the written law, whatever `storage` holds. -/
theorem State.WrittenLaw.of_zero {s : State} (hwc : s.wc = 0) (hrc : s.rc = 0) (havail : s.avail = 0) :
    s.WrittenLaw := by
  refine .inl ⟨.of_zero hwc hrc havail, (State.unreadWritten_iff s).2 fun x hx => ?_⟩
  rw [State.unread_of_avail_zero havail] at hx
  exact absurd hx List.not_mem_nil

end Sys2Proof.Machine
end

section
/-! The ring under every step: the fill law (R40), the written law (R49), and the queue of the unread bytes (R43). -/

namespace Sys2Proof.Machine

/-- Settles O40: a payload adds to `avail` what it adds to the write cursor, a line taken takes from it what it adds to
the read cursor, and a flush zeroes all three. -/
theorem stepKeepsTheFillLaw : Obligations.StepKeepsTheFillLaw :=
  fun _ _ hs hno h => step_keeps (P := State.FillLaw) h hs
    (result := fun _ _ hu => hu)
    (dequeue := fun _ hu => hu)
    (reset := fun _ _ => .of_zero rfl rfl rfl)
    (flush := fun _ _ _ => .of_zero rfl rfl rfl)
    (count := fun _ hu => hu)
    (ack := fun u hu => hu.of_sameRing (sendAck_sameRing u))
    (payload := fun _ hu hlen hst hhead => ringWrite_keeps_fillLaw hu (hno.hasRoomFor hs.1 ⟨hhead, hlen, hst⟩))
    (flow := fun u hu => hu.of_sameRing (checkFlow_sameRing u))
    (frameTick := fun _ hu => hu)
    (out := fun _ hu => hu)
    (attempt := fun _ _ _ hu => hu)
    (position := fun _ hu => hu)
    (fetched := fun _ _ _ hu hle => hu.of_lineTaken hle ⟨rfl, rfl, rfl, rfl, rfl⟩)

theorem step_keeps_writtenLaw {s t : State} (h : step s = .next t) (hs : s.WrittenLaw) : t.WrittenLaw :=
  step_keeps (P := State.WrittenLaw) h hs
    (result := fun _ _ hu => hu)
    (dequeue := fun _ hu => hu)
    (reset := fun _ _ => .of_zero rfl rfl rfl)
    (flush := fun _ _ _ => .of_zero rfl rfl rfl)
    (count := fun _ hu => hu)
    (ack := fun u hu => hu.of_sameRing (sendAck_sameRing u))
    (payload := fun data hu _ _ _ => ringWrite_keeps_writtenLaw data hu)
    (flow := fun u hu => hu.of_sameRing (checkFlow_sameRing u))
    (frameTick := fun _ hu => hu)
    (out := fun _ hu => hu)
    (attempt := fun _ _ _ hu => hu)
    (position := fun _ hu => hu)
    (fetched := fun _ _ _ hu hle => hu.of_lineTaken hle ⟨rfl, rfl, rfl, rfl, rfl⟩)

/-- Settles O43: the bytes a line read takes are unread ones, and stand at indices of `storage`, so that either form of
the written law covers them. -/
theorem noNeverWrittenByteIsRead : Obligations.NoNeverWrittenByteIsRead := by
  refine ⟨fun _ _ hs h => step_keeps_writtenLaw h hs, fun s hs hle i hi => ?_⟩
  rcases hs with ⟨-, hw⟩ | hall
  · exact hw i (hi.trans_le hle)
  · exact hall _ (ringIndex_lt s.cfg s.rc i)

/-! ## The step of each kind of transaction -/

/-- A step runs the operation that the transaction at the head decodes to. -/
theorem step_of_head {s : State} {tr : Transaction} {i : Instr} (hi : s.inputs.head? = some tr)
    (hd : decodeTransaction s.cfg tr = .ok i) : step s = exec i s.dequeue := by
  obtain ⟨rest, hi⟩ := List.head?_eq_some_iff.1 hi
  exact step_of_decode_ok hi hd

/-- A payload block in reception is a ring write, and counted (R151). -/
theorem step_of_receivesPayload {s t : State} {data : List Byte} (h : step s = .next t) (hp : s.ReceivesPayload data) :
    t = setResult .none (acceptPayload data s.dequeue) := by
  obtain ⟨hhead, hlen, hst⟩ := hp
  have hd : decodeTransaction s.cfg (.rxBlock data) = .ok (.rxPayload data) :=
    congrArg Except.ok (Laws.RoundTrip.decodeBlock_payload s.cfg hlen)
  rw [step_of_head hhead hd] at h
  rw [← payload_of_receiving (s := s.dequeue) hst]
  exact answer_eq_next_iff.1 h

/-- Outside reception the data marker flushes (R145). -/
theorem dataMarker_of_not_receiving {s : State} (h : s.st ≠ .receiving) : dataMarker s = flushTo .receiving s := by
  unfold dataMarker
  split
  · rfl
  · contradiction
  · rfl

/-- The four transactions that empty the ring leave nothing unread (R126, R145, R146, R148, R205). -/
theorem step_avail_of_emptiesRing {s t : State} (h : step s = .next t) (he : s.EmptiesRing) : t.avail = 0 := by
  obtain ⟨hsof, hdata, hend, -, -⟩ := Laws.RoundTrip.decodeCommand_commands s.cfg
  rcases he with hhead | hhead | hhead | ⟨hhead, hst⟩
  · rw [step_of_head hhead rfl] at h
    cases h
    rfl
  · rw [step_of_head hhead (congrArg Except.ok hend)] at h
    cases h
    exact endOfFrame_avail s.dequeue
  · rw [step_of_head hhead (congrArg Except.ok hsof)] at h
    cases h
    rfl
  · rw [step_of_head hhead (congrArg Except.ok hdata)] at h
    cases h
    rw [setResult_avail, dataMarker_of_not_receiving (s := s.dequeue) hst]
    rfl

/-- The row that is asked for next is that of a `get_line`, or the source row of a visible line tick. -/
theorem State.nextRow_eq_some_iff {s : State} {row : Nat} :
    s.nextRow = some row ↔ s.inputs.head? = some (.getLine row) ∨
      (s.inputs.head? = some .lineTick ∧ visible s.cfg s.scanline = true ∧ sourceRow s.cfg s.scanline = row) := by
  unfold State.nextRow
  cases s.inputs.head? with
  | none => simp
  | some tr => cases tr <;> simp

/-- A fetch of a new row with a line in the ring takes the oldest line (R186). -/
theorem fetchLine_takes {s : State} {row : Nat} (hrow : s.lastRow ≠ some row) (hle : s.cfg.W ≤ s.avail) :
    LineTaken s (fetchLine row s).2 := by
  rcases fetchLine_cases row s with ⟨hlast, _⟩ | ⟨_, hlt, _⟩ | ⟨_, _, he⟩
  · exact absurd hlast hrow
  · exact absurd hle hlt.not_ge
  · rw [he]
    exact ⟨checkFlow_cfg _, checkFlow_mem _, checkFlow_wc _, checkFlow_rc _, checkFlow_avail _⟩

/-- Any other fetch leaves the ring alone (R187, R188). -/
theorem fetchLine_sameRing {s : State} {row : Nat} (h : ¬(s.lastRow ≠ some row ∧ s.cfg.W ≤ s.avail)) :
    SameRing s (fetchLine row s).2 := by
  rcases fetchLine_cases row s with ⟨_, he⟩ | ⟨_, _, he⟩ | ⟨hrow, hle, _⟩
  · rw [he]
    exact .refl s
  · rw [he]
    exact .refl s
  · exact absurd ⟨hrow, hle⟩ h

theorem tickLine_of_visible {s : State} (h : visible s.cfg s.scanline = true) :
    tickLine s = handOver (fetchLine (sourceRow s.cfg s.scanline)
      { s with scanline := nextScanline s.cfg s.scanline }).2 := by
  rw [tickLine]
  exact if_pos h

theorem tickLine_of_not_visible {s : State} (h : ¬visible s.cfg s.scanline = true) :
    tickLine s = { s with scanline := nextScanline s.cfg s.scanline } := by
  rw [tickLine]
  exact if_neg h

/-- A step on a `get_line` that its port can carry is the fetch (R186). -/
theorem step_of_getLine {s t : State} {row : Nat} (h : step s = .next t)
    (hhead : s.inputs.head? = some (.getLine row)) :
    t = setResult (.bit (fetchLine row s.dequeue).1) (fetchLine row s.dequeue).2 := by
  obtain ⟨rest, hi⟩ := List.head?_eq_some_iff.1 hhead
  by_cases hrow : row < s.cfg.scanMod
  · rw [step_of_decode_ok hi (if_pos hrow)] at h
    exact answer_eq_next_iff.1 h
  · rw [step_of_decode_error hi (decodeTransaction_rowTooWide (not_lt.1 hrow))] at h
    cases h

/-- Both transactions that ask for a row take the oldest line when it is there and the row is new. -/
theorem step_of_takesLine {s t : State} (h : step s = .next t) (hl : s.TakesLine) : LineTaken s t := by
  obtain ⟨row, hnext, hrow, hle⟩ := hl
  rcases State.nextRow_eq_some_iff.1 hnext with hhead | ⟨hhead, hvis, rfl⟩
  · obtain rfl := step_of_getLine h hhead
    exact fetchLine_takes (s := s.dequeue) hrow hle
  · rw [step_of_head hhead rfl] at h
    cases h
    rw [tickLine_of_visible (s := s.dequeue) hvis]
    exact fetchLine_takes (s := { s.dequeue with scanline := nextScanline s.cfg s.scanline }) hrow hle

/-- A received block that is neither a payload in reception nor a flush leaves the ring alone. -/
theorem receiveBlock_sameRing {s : State} {data : List Byte} (hi : s.inputs.head? = some (.rxBlock data))
    (hp : ¬s.ReceivesPayload data) (he : ¬s.EmptiesRing) : SameRing s (receiveBlock data s.dequeue) := by
  rcases receiveBlock_cases data s.dequeue with hsame | ⟨b, rfl, hb, _⟩ | ⟨rfl, _, _⟩ | ⟨rfl, _, _⟩ | ⟨hlen, hst, _⟩
  · rw [hsame]
    exact .refl s
  · rcases hb with rfl | ⟨rfl, hst⟩
    · exact absurd (.inr (.inr (.inl hi))) he
    · exact absurd (.inr (.inr (.inr ⟨hi, hst⟩))) he
  · exact absurd (.inr (.inl hi)) he
  · exact absurd (.inr (.inl hi)) he
  · exact absurd ⟨hi, hlen, hst⟩ hp

/-- A line tick that takes no line leaves the ring alone (R189). -/
theorem tickLine_sameRing {s : State} (hi : s.inputs.head? = some .lineTick) (hl : ¬s.TakesLine) :
    SameRing s (tickLine s.dequeue) := by
  by_cases hvis : visible s.cfg s.scanline = true
  · have hnext : s.nextRow = some (sourceRow s.cfg s.scanline) := State.nextRow_eq_some_iff.2 (.inr ⟨hi, hvis, rfl⟩)
    rw [tickLine_of_visible (s := s.dequeue) hvis]
    exact fetchLine_sameRing (s := { s.dequeue with scanline := nextScanline s.cfg s.scanline })
      fun hnew => hl ⟨_, hnext, hnew⟩
  · rw [tickLine_of_not_visible (s := s.dequeue) hvis]
    exact .refl s

/-- A step that neither receives a payload, nor takes a line, nor empties the ring leaves the ring alone. -/
theorem step_sameRing {s t : State} (h : step s = .next t) (hp : ∀ data, ¬s.ReceivesPayload data) (hl : ¬s.TakesLine)
    (he : ¬s.EmptiesRing) : SameRing s t := by
  rcases step_cases h with ⟨_, rfl⟩ | ⟨tr, rest, hi, h⟩
  · exact .refl t
  have hhead : s.inputs.head? = some tr := by rw [hi, List.head?_cons]
  rcases h with ⟨rfl, _⟩ | ⟨data, rfl, rfl⟩ | ⟨rfl, rfl⟩ | ⟨rfl, rfl⟩ | ⟨row, _, rfl, rfl⟩ | ⟨rfl, rfl⟩ | ⟨rfl, rfl⟩
  · exact absurd (.inl hhead) he
  · exact receiveBlock_sameRing hhead (hp data) he
  · exact tickLine_sameRing hhead hl
  · exact .refl s
  · have hnext : s.nextRow = some row := State.nextRow_eq_some_iff.2 (.inl hhead)
    exact fetchLine_sameRing (s := s.dequeue) fun hnew => hl ⟨row, hnext, hnew⟩
  · exact checkFlow_sameRing s.dequeue
  · exact .refl s

/-- A payload in reception appends the bytes it accepts to the queue. -/
theorem step_unread_of_receivesPayload {s t : State} {data : List Byte} (h : step s = .next t) (hfill : s.FillLaw)
    (hno : s.NoOverrunNext) (hp : s.ReceivesPayload data) :
    t.unread = s.unread ++ (acceptedBytes data s).map some := by
  rw [step_of_receivesPayload h hp]
  exact unread_ringWrite (s := s.dequeue) hfill (hno.hasRoomFor hfill.1 hp)

/-- Settles O44: each kind of step has the ring's effect that its operation has. -/
theorem ringIsAFifo : Obligations.RingIsAFifo := by
  intro s t hwf hfill hw hno h
  refine ⟨fun data n hp hn => ?_, fun hl => ?_, fun he => ?_, fun hp hl he => ?_⟩
  · rw [step_unread_of_receivesPayload h hfill hno hp, acceptedBytes, acceptedCount_of_accepts hn]
  · have htaken := step_of_takesLine h hl
    obtain ⟨row, -, -, hle⟩ := hl
    exact ⟨htaken.unread_eq, htaken.window_eq hwf hle hw⟩
  · exact State.unread_of_avail_zero (step_avail_of_emptiesRing h he)
  · exact (step_sameRing h hp hl he).unread_eq

end Sys2Proof.Machine
end

section
/-! The internal primitives of the ring as operations (R121 to R126). -/

namespace Sys2Proof.Machine

/-- Settles O11: the accepted bytes are stored one by one from the write cursor on. -/
theorem rbWriteStoresAtTheCursorAndCounts : Obligations.RbWriteStoresAtTheCursorAndCounts := by
  intro s data n hn
  obtain rfl := acceptedCount_of_accepts hn
  refine ⟨rfl, (ringWrite data s).mem, ?_, fun i hi hlast => ringWrite_read_at hi hlast,
    fun a ha => ringWrite_read_outside ha, fun a => ?_⟩
  · show answer _ (ringWrite data s) = _
    rw [ringWrite_mem, ringWrite_eq]
    rfl
  · rw [ringWrite_mem, memWrite_read_lineBuf]

/-- A `Drop` overrun accepts exactly the free space (R122). -/
theorem acceptedCount_of_drop_overrun {s : State} {data : List Byte} (hp : s.cfg.overflowPolicy = .drop)
    (hover : s.cfg.C - s.avail < data.length) : acceptedCount data s = s.cfg.C - s.avail := by
  rw [← acceptedBytes_length, acceptedBytes_of_drop hp, List.length_take_of_le hover.le]

/-- Behind a full ring the write cursor is back at the read cursor (R40). -/
theorem State.FillLaw.advance_free {s : State} (h : s.FillLaw) (hrc : s.rc < s.cfg.C) :
    advance s.cfg s.wc (s.cfg.C - s.avail) = s.rc := by
  obtain ⟨hcap, hwc⟩ := h
  rw [advance, ← hwc, Nat.mod_add_mod, Nat.add_assoc, Nat.add_sub_cancel' hcap, Nat.add_mod_right,
    Nat.mod_eq_of_lt hrc]

/-- Settles O13: the free space is filled, so that `avail` is `C` and the write cursor the read cursor. -/
theorem dropOverrunFillsTheRing : Obligations.DropOverrunFillsTheRing := by
  intro s data hp hfill hcursors hover
  have hcount := acceptedCount_of_drop_overrun hp hover
  have hroom : s.HasRoomFor data := .of_drop hp hfill.1 data
  have havail : raise s.cfg s.avail (s.cfg.C - s.avail) = s.cfg.C := by
    rw [raise, Nat.add_sub_cancel' hfill.1, Nat.mod_eq_of_lt s.cfg.C_lt_cntMod]
  have hunread := unread_ringWrite hfill hroom
  rw [acceptedBytes_of_drop hp] at hunread
  refine ⟨setResult (.accepted (acceptedCount data s)) (ringWrite data s), (ringWrite data s).mem, rfl, ?_,
    ringWrite_keeps_fillLaw hfill hroom, hunread, fun hfull => ?_⟩
  · rw [ringWrite_mem, ringWrite_eq, hcount, havail, hfill.advance_free hcursors.2]
    rfl
  · rw [ringWrite_mem, hcount, hfull, Nat.sub_self]
    rfl

/-- From cursor 0 the byte number of an index is the index itself. -/
theorem ringIndex_zero {c : Config} {i : Nat} (hi : i < c.C) : ringIndex c 0 i = i := by
  rw [ringIndex, Nat.zero_add, Nat.mod_eq_of_lt hi]

/-- One round further the byte number is the same index. -/
theorem ringIndex_add_C (c : Config) (a i : Nat) : ringIndex c a (c.C + i) = ringIndex c a i := by
  rw [ringIndex, ringIndex, Nat.add_left_comm, Nat.add_mod_left]

/-- Settles O14: of the two bytes that land on a low index, the one of the second round is the last. -/
theorem unguardedOverrunWrapsOverTheStart : Obligations.UnguardedOverrunWrapsOverTheStart := by
  intro s data hp hwc hlong hshort hcount
  have hall : acceptedCount data s = data.length := acceptedCount_of_accepts (.inr ⟨hp, rfl⟩)
  refine ⟨_, rfl, ?_, ?_, fun i hi => ?_, fun i hlow hi => ?_⟩
  · rw [setResult_wc, ringWrite_wc, hall, hwc, advance, Nat.zero_add]
  · rw [setResult_avail, ringWrite_avail, hall]
    exact Nat.mod_eq_of_lt hcount
  · have hat : (ringWrite data s).mem.read .storage (ringIndex s.cfg s.wc (s.cfg.C + i)) = data[s.cfg.C + i]? :=
      ringWrite_read_at (by omega) (by omega)
    rwa [hwc, ringIndex_add_C, ringIndex_zero (by omega)] at hat
  · have hat : (ringWrite data s).mem.read .storage (ringIndex s.cfg s.wc i) = data[i]? :=
      ringWrite_read_at (by omega) (by omega)
    rwa [hwc, ringIndex_zero hi] at hat

/-- Settles O15: a read finds less than a line, or takes one. -/
theorem rbReadLineReadsAWholeLineOrNothing : Obligations.RbReadLineReadsAWholeLineOrNothing := by
  intro s
  have hexec : exec .rbReadLine s = answer (.line (ringReadLine s).1) (ringReadLine s).2 := rfl
  rcases ringReadLine_cases s with ⟨hlt, he⟩ | ⟨hle, he⟩ <;> rw [hexec, he]
  · exact ⟨rfl, fun _ => rfl, fun hle => absurd hle hlt.not_ge⟩
  · exact ⟨rfl, fun hlt => absurd hle hlt.not_ge, fun _ =>
      ⟨memRead s s.rc s.cfg.W, rfl, memRead_length s s.rc s.cfg.W, fun i hi _ hb => memRead_getElem? s s.rc hi hb⟩⟩

/-- Settles O16: the flush has no branch. -/
theorem rbFlushZeroesRingAndFrameCounters : Obligations.RbFlushZeroesRingAndFrameCounters :=
  fun _ => ⟨rfl, rfl⟩

end Sys2Proof.Machine
end

section
/-! What each received block does (R141 to R154): the decoder's effects as whole states, by `st` where they differ, and
the operations of the commands and of the payload. -/

namespace Sys2Proof.Machine

/-! ## The decoder's effects -/

/-- An acknowledgement touches `tx` alone (R176). -/
theorem sendAck_eq (s : State) :
    sendAck s = { s with tx := if s.cfg.ackEnable then s.tx ++ [s.cfg.ackByte] else s.tx } := by
  unfold sendAck
  split <;> rfl

/-- In reception the data marker is a repeated one, and has no effect (R145). -/
theorem dataMarker_of_receiving {s : State} (h : s.st = .receiving) : dataMarker s = s := by
  rw [dataMarker, h]

/-- In reception the frame-end marker completes a frame (R148). -/
theorem endOfFrame_of_receiving {s : State} (h : s.st = .receiving) :
    endOfFrame s = sendAck (countFrame (flushTo .complete s)) := by
  rw [endOfFrame, h]

/-- Outside reception the frame-end marker flushes, and no frame is completed (R148). -/
theorem endOfFrame_of_not_receiving {s : State} (h : s.st ≠ .receiving) : endOfFrame s = flushTo .complete s := by
  unfold endOfFrame
  split
  · rfl
  · contradiction
  · rfl

/-! ## The operations -/

/-- Settles O3: by whether the marker is the first one of the frame. -/
theorem cmdDataStartsReceptionOutsideReceiving : Obligations.CmdDataStartsReceptionOutsideReceiving := by
  intro s
  obtain ⟨-, hdata, -, -, -⟩ := Laws.RoundTrip.decodeCommand_commands s.cfg
  have hexec : exec .cmdData s = answer .none (dataMarker s) := rfl
  refine ⟨hdata, fun hst => ?_, fun hst => ?_⟩
  · rw [hexec, dataMarker_of_not_receiving hst]
    rfl
  · rw [hexec, dataMarker_of_receiving hst]
    rfl

/-- Settles O4: the marker has no branch. -/
theorem cmdSofFlushesAndReceivesInEveryState : Obligations.CmdSofFlushesAndReceivesInEveryState := by
  intro s
  obtain ⟨hsof, -, -, -, -⟩ := Laws.RoundTrip.decodeCommand_commands s.cfg
  exact ⟨hsof, rfl⟩

/-- Settles O5: by whether a frame is in reception. -/
theorem cmdEndFlushesAndCountsAFrameInReception : Obligations.CmdEndFlushesAndCountsAFrameInReception := by
  intro s
  obtain ⟨-, -, hend, -, -⟩ := Laws.RoundTrip.decodeCommand_commands s.cfg
  have hexec : exec .cmdEnd s = answer .none (endOfFrame s) := rfl
  refine ⟨hend, fun hcode => ?_, fun hcode => ?_, fun hst => ?_, fun hst => ?_⟩
  · rw [Params.ackByte, hcode]
  · rw [Params.ackByte, hcode]
  · rw [hexec, endOfFrame_of_not_receiving hst]
    rfl
  · rw [hexec, endOfFrame_of_receiving hst, sendAck_eq]
    rfl

/-- Settles O6: what is left is that each block decodes to the operation without an effect. -/
theorem emptyForeignAndUnknownBlocksChangeNothing : Obligations.EmptyForeignAndUnknownBlocksChangeNothing := by
  intro s
  obtain ⟨-, -, -, hreq, hidle⟩ := Laws.RoundTrip.decodeCommand_commands s.cfg
  exact ⟨⟨rfl, rfl⟩, ⟨hreq, rfl⟩, ⟨hidle, rfl⟩, fun _ hcode => ⟨Laws.RoundTrip.decodeCommand_unknown s.cfg hcode, rfl⟩⟩

/-- Settles O7: outside reception a payload is discarded. -/
theorem payloadOutsideReceivingIsDiscarded : Obligations.PayloadOutsideReceivingIsDiscarded := by
  intro s data hlen hst
  exact ⟨Laws.RoundTrip.decodeBlock_payload s.cfg hlen, congrArg (answer .none) (payload_of_not_receiving hst data)⟩

/-- Settles O8: in reception a payload is the ring write, and its accepted bytes are counted. -/
theorem payloadInReceivingIsWrittenAndCounted : Obligations.PayloadInReceivingIsWrittenAndCounted := by
  intro s data n hlen hst hn
  obtain rfl := acceptedCount_of_accepts hn
  refine ⟨Laws.RoundTrip.decodeBlock_payload s.cfg hlen, setResult (.accepted (acceptedCount data s)) (ringWrite data s),
    rfl, rfl, ?_, ?_⟩
  · rw [setResult_st, ringWrite_st, hst]
  · exact congrArg (answer .none) (payload_of_receiving hst data)

/-- Settles O9: the dispatch on the bytes and the classification make the same tests in the same order. -/
theorem rxBlockDispatchesOnTheClassifiedBlock : Obligations.RxBlockDispatchesOnTheClassifiedBlock := by
  intro s data
  obtain ⟨t, ht⟩ := exec_total (.rxBlock data) s
  refine ⟨rfl, ⟨t, ht, (exec_decodeBlock data s).symm.trans ht⟩, fun hlen => ?_, fun b hb => ?_,
    Laws.RoundTrip.decodeBlock_payload s.cfg⟩
  · rw [List.length_eq_zero_iff.1 hlen]
    rfl
  · rw [hb]
    rfl

end Sys2Proof.Machine
end

section
/-! The transition table of `st` (R153), and what a received block sends (R148, R156, R264). -/

namespace Sys2Proof.Machine

/-! ## What a received block leaves in `st` and in `tx` -/

/-- A one-byte block of `CMD_DATA` is the data marker, since the command bytes differ (R9, R141). -/
theorem receiveBlock_cmdData (s : State) : receiveBlock [s.cfg.cmdData] s = dataMarker s := by
  obtain ⟨-, -, -, hsof, -, -, -, -, -, -⟩ := s.cfg.commands_distinct
  rw [receiveBlock, receiveCommand, if_neg hsof, if_pos rfl]

/-- A one-byte block of `CMD_SOF` is the start-of-frame marker, the first one tested (R141). -/
theorem receiveBlock_cmdSof (s : State) : receiveBlock [s.cfg.cmdSof] s = startOfFrame s := by
  rw [receiveBlock, receiveCommand, if_pos rfl]

/-- A received `CMD_REQ` is none of the three markers, and has no effect (R149). -/
theorem receiveBlock_cmdReq (s : State) : receiveBlock [s.cfg.cmdReq] s = s := by
  obtain ⟨-, hdata, -, -, hend, -, -, -, hsof, -⟩ := s.cfg.commands_distinct
  rw [receiveBlock, receiveCommand, if_neg hsof, if_neg hdata.symm, if_neg hend.symm]

/-- A block that is none of the three markers is a payload in reception, or has no effect (R141, R154). -/
theorem receiveBlock_of_no_marker {data : List Byte} {s : State} (hdata : data ≠ [s.cfg.cmdData])
    (hsof : data ≠ [s.cfg.cmdSof]) (hend : data ≠ [s.cfg.cmdEnd]) :
    receiveBlock data s = s ∨ (s.st = .receiving ∧ receiveBlock data s = acceptPayload data s) := by
  rcases receiveBlock_cases data s with he | ⟨b, rfl, hb, _⟩ | ⟨rfl, _, _⟩ | ⟨rfl, _, _⟩ | ⟨_, hst, he⟩
  · exact .inl he
  · rcases hb with rfl | ⟨rfl, _⟩
    · exact absurd rfl hsof
    · exact absurd rfl hdata
  · exact absurd rfl hend
  · exact absurd rfl hend
  · exact .inr ⟨hst, he⟩

/-- The rows of the transition table for received blocks (R153). -/
theorem receiveBlock_st (data : List Byte) (s : State) :
    (receiveBlock data s).st =
      if data = [s.cfg.cmdData] ∨ data = [s.cfg.cmdSof] then .receiving
      else if data = [s.cfg.cmdEnd] then .complete
      else s.st := by
  split
  · rename_i hmarker
    rcases hmarker with rfl | rfl
    · rw [receiveBlock_cmdData, dataMarker_st]
    · rw [receiveBlock_cmdSof]
      rfl
  · rename_i hmarker
    obtain ⟨hdata, hsof⟩ := not_or.1 hmarker
    split
    · subst data
      rw [receiveBlock_cmdEnd, endOfFrame_st]
    · rcases receiveBlock_of_no_marker hdata hsof ‹_› with he | ⟨_, he⟩ <;> rw [he]
      exact acceptPayload_st data s

/-- The frame-end marker acknowledges a frame in reception, where that is enabled (R148, R176). -/
theorem endOfFrame_tx (s : State) :
    (endOfFrame s).tx =
      if s.st = .receiving ∧ s.cfg.ackEnable = true then s.tx ++ [s.cfg.ackByte] else s.tx := by
  by_cases hst : s.st = .receiving
  · rw [endOfFrame_of_receiving hst, sendAck_tx]
    exact if_congr (by simp [hst]) rfl rfl
  · rw [endOfFrame_of_not_receiving hst, if_neg fun h => hst h.1, flushTo_tx]

/-- The acknowledgement of a completed frame is the only byte a received block can send (R156). -/
theorem receiveBlock_tx (data : List Byte) (s : State) :
    (receiveBlock data s).tx =
      if data = [s.cfg.cmdEnd] ∧ s.st = .receiving ∧ s.cfg.ackEnable = true then s.tx ++ [s.cfg.ackByte]
      else s.tx := by
  by_cases hend : data = [s.cfg.cmdEnd]
  · simp [hend, receiveBlock_cmdEnd, endOfFrame_tx]
  · rw [if_neg fun h => hend h.1]
    rcases receiveBlock_cases data s with he | ⟨_, _, _, he⟩ | ⟨heq, _, _⟩ | ⟨heq, _, _⟩ | ⟨_, _, he⟩
    · rw [he]
    · rw [he, flushTo_tx]
    · exact absurd heq hend
    · exact absurd heq hend
    · rw [he, acceptPayload_tx]

/-! ## The step -/

@[simp] theorem fetchLine_st (row : Nat) (s : State) : (fetchLine row s).2.st = s.st := by
  rcases fetchLine_cases row s with ⟨_, he⟩ | ⟨_, _, he⟩ | ⟨_, _, he⟩ <;> rw [he]
  rw [checkFlow_st]

@[simp] theorem tickLine_st (s : State) : (tickLine s).st = s.st := by
  rcases tickLine_cases s with ⟨_, he⟩ | ⟨_, he⟩
  · rw [he]
  · rw [he, handOver_st, fetchLine_st]

/-- Settles O47: `INIT` and the three markers write `st`, and no other transaction does. -/
theorem stFollowsTheTransitionTable : Obligations.StFollowsTheTransitionTable := by
  intro s t h
  rcases step_cases h with ⟨hi, rfl⟩ | ⟨tr, rest, hi, h⟩
  · simp [hi]
  rcases h with ⟨rfl, rfl⟩ | ⟨data, rfl, rfl⟩ | ⟨rfl, rfl⟩ | ⟨rfl, rfl⟩ | ⟨row, _, rfl, rfl⟩ | ⟨rfl, rfl⟩ | ⟨rfl, rfl⟩
  · simp [hi]
  · rw [setResult_st, receiveBlock_st, if_neg (by simp [hi] : ¬s.inputs.head? = some .init)]
    exact if_congr (by simp [hi]) rfl (if_congr (by simp [hi]) rfl rfl)
  all_goals simp [hi]

/-! ## Bytes that come back -/

/-- The acknowledgement starts no frame when it comes back: it is neither the data marker nor the start-of-frame marker
(R9, R94). -/
theorem ackByte_starts_no_frame (c : Config) : c.ackByte ≠ c.cmdData ∧ c.ackByte ≠ c.cmdSof := by
  obtain ⟨hend, -, hidle, -, -, -, hendSof, -, -, hidleSof⟩ := c.commands_distinct
  unfold Params.ackByte
  split
  · exact ⟨hend.symm, hendSof⟩
  · exact ⟨hidle.symm, hidleSof⟩

/-- Settles O51: the request is no marker, and after a completed frame no marker completes another one. -/
theorem loopedBackBytesSendNothingAgain : Obligations.LoopedBackBytesSendNothingAgain := by
  refine fun s => ⟨congrArg (answer .none) (receiveBlock_cmdReq s), fun hst => ⟨_, rfl, ?_, ?_, ?_⟩⟩
  · simp [receiveBlock_tx, hst]
  · obtain ⟨hdata, hsof⟩ := ackByte_starts_no_frame s.cfg
    simp [receiveBlock_st, hdata, hsof, hst]
  · simp [receiveBlock_frameCounter, hst]

end Sys2Proof.Machine
end

section
/-! The decoder and the raster state (R156): with other values of `line_buf`, `scanline` and `last_row` a received block
does the same and leaves them in place. That it writes none of the three is the case of their own values. -/

namespace Sys2Proof.Machine

/-- The state with another `line_buf`, `scanline` and `last_row`. -/
def State.withRaster (s : State) (cells : List Host.Cell) (scan : Nat) (row : Option Nat) : State :=
  { s with mem := { s.mem with lineBuf := cells }, scanline := scan, lastRow := row }

/-- A ring write leaves the cells of `line_buf` where they are (R60). -/
theorem memWrite_with_lineBuf (c : Config) (a : Nat) (cells : List Host.Cell) :
    ∀ (data : List Byte) (i : Nat) (m : Memory),
      memWrite c a i data { m with lineBuf := cells } = { memWrite c a i data m with lineBuf := cells }
  | [], _, _ => rfl
  | b :: bs, i, m => memWrite_with_lineBuf c a cells bs (i + 1) (m.write .storage (ringIndex c a i) b)

section

variable (s : State) (cells : List Host.Cell) (scan : Nat) (row : Option Nat)

@[simp] theorem State.withRaster_cfg : (s.withRaster cells scan row).cfg = s.cfg := rfl
@[simp] theorem State.withRaster_st : (s.withRaster cells scan row).st = s.st := rfl

theorem ringWrite_withRaster (data : List Byte) :
    ringWrite data (s.withRaster cells scan row) = (ringWrite data s).withRaster cells scan row := by
  have hmem := memWrite_with_lineBuf s.cfg s.wc cells (data.take (acceptedCount data s)) 0 s.mem
  rw [ringWrite_eq, ringWrite_eq, State.withRaster, State.withRaster, ← hmem]
  rfl

theorem payload_withRaster (data : List Byte) :
    payload data (s.withRaster cells scan row) = (payload data s).withRaster cells scan row := by
  by_cases hst : s.st = .receiving
  · rw [payload_of_receiving hst, payload_of_receiving (by simpa using hst), acceptPayload, ringWrite_withRaster]
    rfl
  · rw [payload_of_not_receiving hst, payload_of_not_receiving (by simpa using hst)]

theorem dataMarker_withRaster :
    dataMarker (s.withRaster cells scan row) = (dataMarker s).withRaster cells scan row := by
  by_cases hst : s.st = .receiving
  · rw [dataMarker_of_receiving hst, dataMarker_of_receiving (by simpa using hst)]
  · rw [dataMarker_of_not_receiving hst, dataMarker_of_not_receiving (by simpa using hst)]
    rfl

theorem endOfFrame_withRaster :
    endOfFrame (s.withRaster cells scan row) = (endOfFrame s).withRaster cells scan row := by
  by_cases hst : s.st = .receiving
  · rw [endOfFrame_of_receiving hst, endOfFrame_of_receiving (by simpa using hst), sendAck_eq, sendAck_eq]
    rfl
  · rw [endOfFrame_of_not_receiving hst, endOfFrame_of_not_receiving (by simpa using hst)]
    rfl

theorem receiveCommand_withRaster (b : Byte) :
    receiveCommand b (s.withRaster cells scan row) = (receiveCommand b s).withRaster cells scan row := by
  unfold receiveCommand
  rw [State.withRaster_cfg]
  split
  · rfl
  split
  · exact dataMarker_withRaster s cells scan row
  split
  · exact endOfFrame_withRaster s cells scan row
  · rfl

/-- No received block reads the raster state. -/
theorem receiveBlock_withRaster (data : List Byte) :
    receiveBlock data (s.withRaster cells scan row) = (receiveBlock data s).withRaster cells scan row := by
  match data with
  | [] => rfl
  | [b] => exact receiveCommand_withRaster s cells scan row b
  | b₀ :: b₁ :: rest => exact payload_withRaster s cells scan row (b₀ :: b₁ :: rest)

end

/-- A received block leaves the raster state in place, as it does any other. -/
theorem receiveBlock_eq_withRaster (data : List Byte) (s : State) :
    receiveBlock data s = (receiveBlock data s).withRaster s.mem.lineBuf s.scanline s.lastRow :=
  receiveBlock_withRaster s s.mem.lineBuf s.scanline s.lastRow data

@[simp] theorem receiveBlock_lineBuf (data : List Byte) (s : State) :
    (receiveBlock data s).mem.lineBuf = s.mem.lineBuf := by
  rw [receiveBlock_eq_withRaster]
  rfl

@[simp] theorem receiveBlock_scanline (data : List Byte) (s : State) : (receiveBlock data s).scanline = s.scanline := by
  rw [receiveBlock_eq_withRaster]
  rfl

@[simp] theorem receiveBlock_lastRow (data : List Byte) (s : State) : (receiveBlock data s).lastRow = s.lastRow := by
  rw [receiveBlock_eq_withRaster]
  rfl

/-- What `line_buf` reads as is a matter of its own cells. -/
theorem Memory.read_lineBuf_congr {m m' : Memory} (h : m.lineBuf = m'.lineBuf) (a : Nat) :
    m.read .lineBuf a = m'.read .lineBuf a := by
  simp only [Memory.read, Memory.cells, h]

/-- Settles O50: a block does not read the raster state, leaves it in place, and sends the acknowledgement at most. -/
theorem producerLeavesRasterStateAlone : Obligations.ProducerLeavesRasterStateAlone := by
  intro s t data h
  obtain rfl := answer_eq_next_iff.1 h
  refine ⟨Memory.read_lineBuf_congr (receiveBlock_lineBuf data s), receiveBlock_scanline data s,
    receiveBlock_lastRow data s, receiveBlock_out data s, ?_, fun cells scan row => ?_⟩
  · rw [setResult_tx, receiveBlock_tx]
    split
    · rename_i hack
      obtain ⟨hend, hst, henabled⟩ := hack
      exact .inr ⟨hend, hst, henabled, rfl⟩
    · exact .inl rfl
  · exact congrArg (answer .none) (receiveBlock_withRaster s cells scan row data)

end Sys2Proof.Machine
end

section
/-! `ST_IDLE` and `ST_COMPLETE` (R144): an operation that reads `st` asks only whether a frame is in reception. One that
writes `st` therefore answers the same state from both, and any other one leaves `st` as it was. -/

namespace Sys2Proof.Machine

/-- The state with another position in the frame protocol. -/
def State.withSt (s : State) (x : FrameState) : State := { s with st := x }

/-! ## The operations that do not read it -/

section

variable (s : State) (x : FrameState)

@[simp] theorem State.withSt_cfg : (s.withSt x).cfg = s.cfg := rfl
@[simp] theorem State.withSt_lastRow : (s.withSt x).lastRow = s.lastRow := rfl

theorem sendRequest_withSt : sendRequest (s.withSt x) = (sendRequest s).withSt x := by
  unfold sendRequest
  rw [apply_ite fun u : State => u.withSt x]
  rfl

theorem sendAck_withSt : sendAck (s.withSt x) = (sendAck s).withSt x := by
  rw [sendAck_eq, sendAck_eq]
  rfl

theorem checkFlow_withSt : checkFlow (s.withSt x) = (checkFlow s).withSt x := by
  rw [checkFlow_eq, checkFlow_eq]
  rfl

theorem ringWrite_withSt (data : List Byte) : ringWrite data (s.withSt x) = (ringWrite data s).withSt x := by
  rw [ringWrite_eq, ringWrite_eq]
  rfl

theorem ringReadLine_withSt : ringReadLine (s.withSt x) = ((ringReadLine s).1, (ringReadLine s).2.withSt x) := by
  by_cases hread : canRead s = true
  · rw [ringReadLine, ringReadLine, if_pos hread, if_pos (c := canRead (s.withSt x) = true) hread]
    rfl
  · rw [ringReadLine, ringReadLine, if_neg hread, if_neg (c := canRead (s.withSt x) = true) hread]

theorem fetchLine_withSt (row : Nat) :
    fetchLine row (s.withSt x) = ((fetchLine row s).1, (fetchLine row s).2.withSt x) := by
  have hread : ringReadLine { s.withSt x with lastRow := some row } = _ :=
    ringReadLine_withSt { s with lastRow := some row } x
  unfold fetchLine
  rw [State.withSt_lastRow, hread]
  split
  · rfl
  · rcases ringReadLine_cases { s with lastRow := some row } with ⟨_, he⟩ | ⟨_, he⟩ <;> rw [he]
    dsimp only
    rw [checkFlow_eq, checkFlow_eq]
    rfl

theorem tickLine_withSt : tickLine (s.withSt x) = (tickLine s).withSt x := by
  by_cases hvis : visible s.cfg s.scanline = true
  · rw [tickLine_of_visible hvis, tickLine_of_visible (s := s.withSt x) hvis]
    exact congrArg (fun p : Bool × State => handOver p.2)
      (fetchLine_withSt { s with scanline := nextScanline s.cfg s.scanline } x (sourceRow s.cfg s.scanline))
  · rw [tickLine_of_not_visible hvis, tickLine_of_not_visible (s := s.withSt x) hvis]
    rfl

end

/-! ## The operations that do -/

/-- A received block outside reception: a marker leaves nothing of the old `st`, any other block changes nothing. -/
theorem receiveBlock_withSt_cases (data : List Byte) (s : State) :
    receiveBlock data (s.withSt .idle) = receiveBlock data (s.withSt .complete) ∨
      ∀ x ≠ .receiving, receiveBlock data (s.withSt x) = s.withSt x := by
  by_cases hdata : data = [s.cfg.cmdData]
  · subst data
    exact .inl ((receiveBlock_cmdData (s.withSt .idle)).trans (receiveBlock_cmdData (s.withSt .complete)).symm)
  by_cases hsof : data = [s.cfg.cmdSof]
  · subst data
    exact .inl ((receiveBlock_cmdSof (s.withSt .idle)).trans (receiveBlock_cmdSof (s.withSt .complete)).symm)
  by_cases hend : data = [s.cfg.cmdEnd]
  · subst data
    exact .inl ((receiveBlock_cmdEnd (s.withSt .idle)).trans (receiveBlock_cmdEnd (s.withSt .complete)).symm)
  refine .inr fun x hx => ?_
  rcases receiveBlock_of_no_marker (s := s.withSt x) hdata hsof hend with he | ⟨hst, _⟩
  · exact he
  · exact absurd hst hx

/-- Outside reception an operation answers the same state whatever `st` is, or leaves `st` as it was and takes no notice
of it. -/
theorem exec_withSt_cases (i : Instr) (s : State) :
    exec i (s.withSt .idle) = exec i (s.withSt .complete) ∨
      ∃ t : State, ∀ x ≠ .receiving, exec i (s.withSt x) = .next (t.withSt x) := by
  cases i with
  | cmdData | cmdEnd | cmdSof | init => exact .inl rfl
  | cmdReq | cmdIdle | cmdUnknown | rxEmpty => exact .inr ⟨setResult .none s, fun _ _ => rfl⟩
  | rxPayload data =>
    exact .inr ⟨setResult .none s, fun x hx => congrArg (answer .none) (payload_of_not_receiving (s := s.withSt x) hx data)⟩
  | rxBlock data =>
    refine (receiveBlock_withSt_cases data s).imp (congrArg (answer .none)) fun h => ?_
    exact ⟨setResult .none s, fun x hx => congrArg (answer .none) (h x hx)⟩
  | frameTick => exact .inr ⟨setResult .none (tickFrame s), fun _ _ => rfl⟩
  | rbFlush => exact .inr ⟨setResult .none (ringFlush s), fun _ _ => rfl⟩
  | txEmit b => exact .inr ⟨setResult .none (emit b s), fun _ _ => rfl⟩
  | getAvailableLines => exact .inr ⟨setResult (.count (wholeLines s)) s, fun _ _ => rfl⟩
  | txReq => exact .inr ⟨setResult .none (sendRequest s), fun x _ => congrArg (answer .none) (sendRequest_withSt s x)⟩
  | txAck => exact .inr ⟨setResult .none (sendAck s), fun x _ => congrArg (answer .none) (sendAck_withSt s x)⟩
  | flowCheck => exact .inr ⟨setResult .none (checkFlow s), fun x _ => congrArg (answer .none) (checkFlow_withSt s x)⟩
  | lineTick => exact .inr ⟨setResult .none (tickLine s), fun x _ => congrArg (answer .none) (tickLine_withSt s x)⟩
  | getLine row =>
    exact .inr ⟨setResult (.bit (fetchLine row s).1) (fetchLine row s).2, fun x _ =>
      congrArg (fun p : Bool × State => answer (.bit p.1) p.2) (fetchLine_withSt s x row)⟩
  | rbWrite data =>
    exact .inr ⟨setResult (.accepted (acceptedCount data s)) (ringWrite data s), fun x _ =>
      congrArg (answer (.accepted (acceptedCount data s))) (ringWrite_withSt s x data)⟩
  | rbReadLine =>
    exact .inr ⟨setResult (.line (ringReadLine s).1) (ringReadLine s).2, fun x _ =>
      congrArg (fun p : Option (List Byte) × State => answer (.line p.1) p.2) (ringReadLine_withSt s x)⟩

/-- Settles O48: neither of the two is reception. -/
theorem idleAndCompleteBehaveAlike : Obligations.IdleAndCompleteBehaveAlike := by
  intro i s t u ht hu
  rcases exec_withSt_cases i s with hsame | ⟨v, hv⟩
  · have htu : Host.Outcome.next t = Host.Outcome.next u := ht.symm.trans (hsame.trans hu)
    cases htu
    exact ⟨rfl, .inl rfl⟩
  · cases ht.symm.trans (hv .idle (by decide))
    cases hu.symm.trans (hv .complete (by decide))
    exact ⟨rfl, .inr ⟨rfl, rfl⟩⟩

end Sys2Proof.Machine
end

section
/-! The transmitter's operations (R171 to R176): the byte, the acknowledgement, and the three things a flow check can
do. -/

namespace Sys2Proof.Machine

/-- At or below the mark a check sends a request, unless de-duplication holds it back (R173, R174). -/
theorem checkFlow_of_low {s : State} (hlow : s.avail ≤ s.cfg.T)
    (hfree : ¬(s.cfg.reqDedup = true ∧ s.reqOutstanding = true)) : checkFlow s = sendRequest s := by
  rw [checkFlow, low, if_pos (decide_eq_true hlow), if_neg (by rwa [Bool.and_eq_true])]

/-- At or below the mark a check whose request is held back does nothing (R174). -/
theorem checkFlow_of_held {s : State} (hlow : s.avail ≤ s.cfg.T) (hdedup : s.cfg.reqDedup = true)
    (hflag : s.reqOutstanding = true) : checkFlow s = s := by
  rw [checkFlow, low, if_pos (decide_eq_true hlow), if_pos (by rw [hdedup, hflag, Bool.and_self])]

/-- Above the mark a check clears the flag (R174). -/
theorem checkFlow_of_above {s : State} (habove : s.cfg.T < s.avail) :
    checkFlow s = { s with reqOutstanding := false } := by
  rw [checkFlow, low, if_neg (by rw [decide_eq_true_eq]; exact habove.not_ge)]

/-- Without de-duplication a request leaves the flag alone (R37, R173). -/
theorem sendRequest_of_not_dedup {s : State} (h : s.cfg.reqDedup = false) :
    sendRequest s = emit s.cfg.cmdReq s := by
  rw [sendRequest, h]
  rfl

/-- With de-duplication a request sets the flag (R174). -/
theorem sendRequest_of_dedup {s : State} (h : s.cfg.reqDedup = true) :
    sendRequest s = { emit s.cfg.cmdReq s with reqOutstanding := true } := by
  rw [sendRequest, if_pos h]

/-- Settles O17: the operation is the append to `tx`. -/
theorem txEmitAppendsOneByte : Obligations.TxEmitAppendsOneByte := fun _ _ => ⟨rfl, rfl⟩

/-- Settles O19: by the switch for the effect, and by the code for the byte. -/
theorem txAckSendsTheAckByteWhenEnabled : Obligations.TxAckSendsTheAckByteWhenEnabled := by
  intro s
  have hexec : exec .txAck s = answer .none (sendAck s) := rfl
  refine ⟨fun hon => ?_, fun hoff => ?_, fun hcode => ?_, fun hcode => ?_⟩
  · rw [hexec, sendAck_eq, if_pos hon]
    rfl
  · rw [hexec, sendAck_eq, hoff]
    rfl
  · rw [Params.ackByte, hcode]
  · rw [Params.ackByte, hcode]

/-- Settles O20: the clauses are the branches of the check, with the flag that its request sets. -/
theorem flowCheckRequestsAtOrBelowTheMark : Obligations.FlowCheckRequestsAtOrBelowTheMark := by
  intro s
  have hexec : exec .flowCheck s = answer .none (checkFlow s) := rfl
  refine ⟨rfl, fun hlow hdedup => ?_, fun hlow hdedup hflag => ?_, fun hlow hdedup hflag => ?_, fun habove => ?_⟩
  · rw [hexec, checkFlow_of_low hlow (by simp [hdedup]), sendRequest_of_not_dedup hdedup]
    rfl
  · rw [hexec, checkFlow_of_low hlow (by simp [hflag]), sendRequest_of_dedup hdedup]
    rfl
  · rw [hexec, checkFlow_of_held hlow hdedup hflag]
    rfl
  · rw [hexec, checkFlow_of_above habove]
    rfl

end Sys2Proof.Machine
end

section
/-! Requests under every step (R174, R175): which steps run the flow check, what each kind of step does to `tx` and to
the request flag, and what a run can send between two moments that clear the flag. -/

namespace Sys2Proof.Machine

/-! ## What each kind of step does to `tx` and to the flag -/

/-- The next transaction runs the flow check: it is a poll tick, or it consumes a line (R175). -/
def State.ChecksFlow (s : State) : Prop := s.inputs.head? = some .pollTick ∨ s.TakesLine

/-- `t` has what a flow check on `s` leaves in `tx` and in the flag, at the level that `t` has (R173, R174). -/
def FlowChecked (s t : State) : Prop :=
  t.tx = (if t.avail ≤ s.cfg.T ∧ ¬(s.cfg.reqDedup = true ∧ s.reqOutstanding = true)
    then s.tx ++ [s.cfg.cmdReq] else s.tx) ∧
  t.reqOutstanding = if t.avail ≤ s.cfg.T then s.cfg.reqDedup || s.reqOutstanding else false

/-- `t` has sent what `s` had sent, and has the flag of `s`. -/
def SameRequests (s t : State) : Prop := t.tx = s.tx ∧ t.reqOutstanding = s.reqOutstanding

theorem SameRequests.refl (s : State) : SameRequests s s := ⟨rfl, rfl⟩

theorem checkFlow_flowChecked (s : State) : FlowChecked s (checkFlow s) := by
  unfold FlowChecked
  rw [checkFlow_avail, checkFlow_eq]
  exact ⟨rfl, rfl⟩

/-- What a flow check sends is a request exactly at or below the mark, when nothing holds it back. -/
theorem FlowChecked.tx_eq_iff {s t : State} (h : FlowChecked s t) :
    t.tx = s.tx ++ [s.cfg.cmdReq] ↔
      t.avail ≤ s.cfg.T ∧ ¬(s.cfg.reqDedup = true ∧ s.reqOutstanding = true) := by
  obtain ⟨htx, -⟩ := h
  rw [htx]
  split
  · exact iff_of_true rfl ‹_›
  · exact iff_of_false (by simp) ‹_›

/-- A fetch of a new row with a line in the ring ends with the flow check, on the lowered `avail` (R186, R187). -/
theorem fetchLine_flowChecked {s : State} {row : Nat} (hrow : s.lastRow ≠ some row) (hle : s.cfg.W ≤ s.avail) :
    FlowChecked s (fetchLine row s).2 := by
  rcases fetchLine_cases row s with ⟨hlast, _⟩ | ⟨_, hlt, _⟩ | ⟨_, _, he⟩
  · exact absurd hlast hrow
  · exact absurd hle hlt.not_ge
  · rw [he]
    exact checkFlow_flowChecked _

/-- Any other fetch runs no flow check (R187, R188). -/
theorem fetchLine_sameRequests {s : State} {row : Nat} (h : ¬(s.lastRow ≠ some row ∧ s.cfg.W ≤ s.avail)) :
    SameRequests s (fetchLine row s).2 := by
  rcases fetchLine_cases row s with ⟨_, he⟩ | ⟨_, _, he⟩ | ⟨hrow, hle, _⟩
  · rw [he]
    exact .refl s
  · rw [he]
    exact .refl s
  · exact absurd ⟨hrow, hle⟩ h

/-- A line tick that consumes no line runs no flow check (R189). -/
theorem tickLine_sameRequests {s : State} (hi : s.inputs.head? = some .lineTick) (hl : ¬s.TakesLine) :
    SameRequests s (tickLine s.dequeue) := by
  by_cases hvis : visible s.cfg s.scanline = true
  · have hnext : s.nextRow = some (sourceRow s.cfg s.scanline) := State.nextRow_eq_some_iff.2 (.inr ⟨hi, hvis, rfl⟩)
    rw [tickLine_of_visible (s := s.dequeue) hvis]
    exact fetchLine_sameRequests (s := { s.dequeue with scanline := nextScanline s.cfg s.scanline })
      fun hnew => hl ⟨_, hnext, hnew⟩
  · rw [tickLine_of_not_visible (s := s.dequeue) hvis]
    exact .refl s

/-- A received block that is neither a payload in reception nor a flush has no effect (R142, R145, R149 to R154). -/
theorem receiveBlock_eq_self {s : State} {data : List Byte} (hi : s.inputs.head? = some (.rxBlock data))
    (hp : ¬s.ReceivesPayload data) (he : ¬s.EmptiesRing) : receiveBlock data s.dequeue = s.dequeue := by
  rcases receiveBlock_cases data s.dequeue with hsame | ⟨b, rfl, hb, _⟩ | ⟨rfl, _, _⟩ | ⟨rfl, _, _⟩ | ⟨hlen, hst, _⟩
  · exact hsame
  · rcases hb with rfl | ⟨rfl, hst⟩
    · exact absurd (.inr (.inr (.inl hi))) he
    · exact absurd (.inr (.inr (.inr ⟨hi, hst⟩))) he
  · exact absurd (.inr (.inl hi)) he
  · exact absurd (.inr (.inl hi)) he
  · exact absurd ⟨hi, hlen, hst⟩ hp

/-- Each transaction that runs the flow check has the check's effect, since what comes before the check in it touches
neither `tx` nor the flag. -/
theorem step_of_checksFlow {s t : State} (h : step s = .next t) (hc : s.ChecksFlow) : FlowChecked s t := by
  rcases hc with hpoll | ⟨row, hnext, hrow, hle⟩
  · rw [step_of_head hpoll rfl] at h
    cases h
    exact checkFlow_flowChecked s.dequeue
  rcases State.nextRow_eq_some_iff.1 hnext with hget | ⟨htick, hvis, rfl⟩
  · rw [step_of_getLine h hget]
    exact fetchLine_flowChecked (s := s.dequeue) hrow hle
  · rw [step_of_head htick rfl] at h
    cases h
    rw [tickLine_of_visible (s := s.dequeue) hvis]
    exact fetchLine_flowChecked (s := { s.dequeue with scanline := nextScanline s.cfg s.scanline }) hrow hle

/-- A payload in reception sends nothing, and clears the flag when it leaves `avail` above the mark (R121, R151). -/
theorem step_requests_of_receivesPayload {s t : State} {data : List Byte} (h : step s = .next t)
    (hp : s.ReceivesPayload data) :
    t.tx = s.tx ∧ t.reqOutstanding = if s.cfg.T < t.avail then false else s.reqOutstanding := by
  rw [step_of_receivesPayload h hp]
  refine ⟨acceptPayload_tx data s.dequeue, ?_⟩
  rw [setResult_avail, acceptPayload_avail]
  exact acceptPayload_reqOutstanding data s.dequeue

/-- A step that empties the ring clears the flag, and sends nothing or an acknowledgement (R126, R148, R205). -/
theorem step_requests_of_emptiesRing {s t : State} (h : step s = .next t) (he : s.EmptiesRing) :
    t.reqOutstanding = false ∧ (t.tx = s.tx ∨ t.tx = s.tx ++ [s.cfg.ackByte]) := by
  obtain ⟨hsof, hdata, hend, -, -⟩ := Laws.RoundTrip.decodeCommand_commands s.cfg
  rcases he with hhead | hhead | hhead | ⟨hhead, hst⟩
  · rw [step_of_head hhead rfl] at h
    cases h
    exact ⟨rfl, .inl rfl⟩
  · rw [step_of_head hhead (congrArg Except.ok hend)] at h
    cases h
    refine ⟨endOfFrame_reqOutstanding s.dequeue, ?_⟩
    rw [setResult_tx, endOfFrame_tx]
    exact (ite_eq_or_eq _ _ _).symm
  · rw [step_of_head hhead (congrArg Except.ok hsof)] at h
    cases h
    exact ⟨rfl, .inl rfl⟩
  · rw [step_of_head hhead (congrArg Except.ok hdata)] at h
    cases h
    rw [dataMarker_of_not_receiving (s := s.dequeue) hst]
    exact ⟨rfl, .inl rfl⟩

/-- Every other step sends nothing and leaves the flag alone. -/
theorem step_sameRequests {s t : State} (h : step s = .next t) (hc : ¬s.ChecksFlow)
    (hp : ∀ data, ¬s.ReceivesPayload data) (he : ¬s.EmptiesRing) : SameRequests s t := by
  rcases step_cases h with ⟨_, rfl⟩ | ⟨tr, rest, hi, h⟩
  · exact .refl t
  have hhead : s.inputs.head? = some tr := by rw [hi, List.head?_cons]
  obtain ⟨hpoll, hline⟩ := not_or.1 hc
  rcases h with ⟨rfl, _⟩ | ⟨data, rfl, rfl⟩ | ⟨rfl, rfl⟩ | ⟨rfl, rfl⟩ | ⟨row, _, rfl, rfl⟩ | ⟨rfl, _⟩ | ⟨rfl, rfl⟩
  · exact absurd (.inl hhead) he
  · rw [receiveBlock_eq_self hhead (hp data) he]
    exact .refl s
  · exact tickLine_sameRequests hhead hline
  · exact .refl s
  · have hnext : s.nextRow = some row := State.nextRow_eq_some_iff.2 (.inl hhead)
    exact fetchLine_sameRequests (s := s.dequeue) fun hnew => hline ⟨row, hnext, hnew⟩
  · exact absurd hhead hpoll
  · exact .refl s

/-- What a step can do to `tx` and to the flag, said once: a flow check; a flush; nothing, but that a payload above the
mark clears the flag. -/
theorem step_request_cases {s t : State} (h : step s = .next t) :
    (s.ChecksFlow ∧ FlowChecked s t) ∨
    (¬s.ChecksFlow ∧ s.EmptiesRing ∧ t.reqOutstanding = false ∧ (t.tx = s.tx ∨ t.tx = s.tx ++ [s.cfg.ackByte])) ∨
    (¬s.ChecksFlow ∧ t.tx = s.tx ∧
      (t.reqOutstanding = s.reqOutstanding ∨ (s.cfg.T < t.avail ∧ t.reqOutstanding = false))) := by
  by_cases hc : s.ChecksFlow
  · exact .inl ⟨hc, step_of_checksFlow h hc⟩
  by_cases he : s.EmptiesRing
  · exact .inr (.inl ⟨hc, he, step_requests_of_emptiesRing h he⟩)
  refine .inr (.inr ⟨hc, ?_⟩)
  by_cases hp : ∃ data, s.ReceivesPayload data
  · obtain ⟨data, hp⟩ := hp
    obtain ⟨htx, hflag⟩ := step_requests_of_receivesPayload h hp
    refine ⟨htx, ?_⟩
    split at hflag
    · exact .inr ⟨‹_›, hflag⟩
    · exact .inl hflag
  · obtain ⟨htx, hflag⟩ := step_sameRequests h hc (not_exists.1 hp) he
    exact ⟨htx, .inl hflag⟩

/-- Settles O22: of the three things a step can do to `tx`, only the flow check appends a request; an acknowledgement is
another byte (R9, R94). -/
theorem requestsComeFromPollsAndConsumedLinesOnly : Obligations.RequestsComeFromPollsAndConsumedLinesOnly := by
  intro s t h
  rcases step_request_cases h with ⟨hc, hchecked⟩ | ⟨hc, _, _, htx⟩ | ⟨hc, htx, _⟩
  · exact hchecked.tx_eq_iff.trans (iff_and_self.2 fun _ => hc)
  · refine iff_of_false (fun hreq => ?_) fun hsends => hc hsends.1
    rcases htx with htx | htx
    · simp [htx] at hreq
    · simp [htx, s.cfg.ackByte_ne_cmdReq] at hreq
  · refine iff_of_false (fun hreq => ?_) fun hsends => hc hsends.1
    simp [htx] at hreq

/-! ## With de-duplication -/

/-- A request is sent only with the flag clear, and sets it. -/
theorem step_request_sets_flag {s t : State} (hdedup : s.cfg.reqDedup = true) (h : step s = .next t)
    (hreq : t.tx = s.tx ++ [s.cfg.cmdReq]) : s.reqOutstanding = false ∧ t.reqOutstanding = true := by
  obtain ⟨hc, hlow, hfree⟩ := (requestsComeFromPollsAndConsumedLinesOnly s t h).1 hreq
  obtain ⟨-, hflag⟩ := step_of_checksFlow h hc
  refine ⟨by simpa [hdedup] using hfree, ?_⟩
  rw [hflag, if_pos hlow, hdedup, Bool.true_or]

/-- Only a step that sends a request sets the flag. -/
theorem step_sends_request_of_flag_set {s t : State} (h : step s = .next t) (hs : s.reqOutstanding = false)
    (ht : t.reqOutstanding = true) : t.tx = s.tx ++ [s.cfg.cmdReq] := by
  rcases step_request_cases h with ⟨_, hchecked⟩ | ⟨_, _, hflag, _⟩ | ⟨_, _, hflag | ⟨_, hflag⟩⟩
  · refine hchecked.tx_eq_iff.2 ⟨?_, by simp [hs]⟩
    by_contra hlow
    obtain ⟨-, hflag⟩ := hchecked
    simp [hflag, hlow] at ht
  · simp [hflag] at ht
  · simp [hflag, hs] at ht
  · simp [hflag] at ht

/-- A payload, a poll or a consumed line that leaves `avail` above the mark clears the flag. -/
theorem step_clears_flag_above_mark {s t : State} (h : step s = .next t)
    (hkind : (∃ data, s.ReceivesPayload data) ∨ s.ChecksFlow) (habove : s.cfg.T < t.avail) :
    t.reqOutstanding = false := by
  rcases hkind with ⟨data, hp⟩ | hc
  · obtain ⟨-, hflag⟩ := step_requests_of_receivesPayload h hp
    rw [hflag, if_pos habove]
  · obtain ⟨-, hflag⟩ := step_of_checksFlow h hc
    rw [hflag, if_neg habove.not_ge]

/-- A step that clears the flag leaves `avail` above the mark, or empties the ring. -/
theorem above_mark_or_emptiesRing_of_flag_cleared {s t : State} (hdedup : s.cfg.reqDedup = true)
    (h : step s = .next t) (hs : s.reqOutstanding = true) (ht : t.reqOutstanding = false) :
    s.cfg.T < t.avail ∨ s.EmptiesRing := by
  rcases step_request_cases h with ⟨_, _, hflag⟩ | ⟨_, he, _, _⟩ | ⟨_, _, hflag | ⟨habove, _⟩⟩
  · refine .inl (not_le.1 fun hlow => ?_)
    simp [hflag, hlow, hdedup] at ht
  · exact .inr he
  · simp [hflag, hs] at ht
  · exact .inl habove

/-- On an empty ring with the flag clear the flow check sends one request. -/
theorem exec_flowCheck_of_empty {s : State} (havail : s.avail = 0) (hflag : s.reqOutstanding = false) :
    ∃ u, exec .flowCheck s = .next u ∧ u.tx = s.tx ++ [s.cfg.cmdReq] := by
  refine ⟨setResult .none (checkFlow s), rfl, ?_⟩
  have hlow : s.avail ≤ s.cfg.T := by omega
  rw [setResult_tx, checkFlow_of_low hlow (by simp [hflag]), sendRequest_tx]

/-! ## Runs without a moment that clears the flag -/

/-- From `s` to `t` nothing was sent and the flag kept, or one request was sent and the flag set. -/
def AtMostOneRequest (s t : State) : Prop :=
  SameRequests s t ∨ (t.tx = s.tx ++ [s.cfg.cmdReq] ∧ s.reqOutstanding = false ∧ t.reqOutstanding = true)

/-- The flag that the first request sets keeps a second one from being sent. -/
theorem AtMostOneRequest.trans {s u t : State} (hcfg : u.cfg = s.cfg) (hsu : AtMostOneRequest s u)
    (hut : AtMostOneRequest u t) : AtMostOneRequest s t := by
  rcases hsu with ⟨hsuTx, hsuFlag⟩ | ⟨hsuTx, hs, hu⟩ <;> rcases hut with ⟨hutTx, hutFlag⟩ | ⟨hutTx, hu', ht⟩
  · exact .inl ⟨hutTx.trans hsuTx, hutFlag.trans hsuFlag⟩
  · exact .inr ⟨by rw [hutTx, hsuTx, hcfg], hsuFlag.symm.trans hu', ht⟩
  · exact .inr ⟨hutTx.trans hsuTx, hs, hutFlag.trans hu⟩
  · exact absurd (hu.symm.trans hu') (by decide)

/-- A step that ends at or below the mark and empties no ring sends at most one request. -/
theorem step_atMostOneRequest {s t : State} (hdedup : s.cfg.reqDedup = true) (h : step s = .next t)
    (he : ¬s.EmptiesRing) (hlow : t.avail ≤ s.cfg.T) : AtMostOneRequest s t := by
  rcases step_request_cases h with ⟨_, htx, hflag⟩ | ⟨_, he', _, _⟩ | ⟨_, htx, hflag | ⟨habove, _⟩⟩
  · cases hs : s.reqOutstanding with
    | false => exact .inr ⟨by simp [htx, hlow, hs], hs, by simp [hflag, hlow, hdedup]⟩
    | true => exact .inl ⟨by simp [htx, hs, hdedup], by simp [hflag, hlow, hs]⟩
  · exact absurd he' he
  · exact .inl ⟨htx, hflag⟩
  · exact absurd hlow habove.not_ge

/-- A run that stays low stays low after its first step. -/
theorem StaysLow.of_step {k : Nat} {s u : State} (hlow : StaysLow (k + 1) s) (h : step s = .next u) : StaysLow k u := by
  intro j v hv
  obtain ⟨hkeeps, hmark⟩ := hlow (j + 1) v ((core_run_succ j h).trans hv)
  exact ⟨fun hj => hkeeps (by omega), fun _ hj => hmark (by omega) (by omega)⟩

/-- A run with no moment that clears the flag sends at most one request, whatever its length (R174). -/
theorem run_atMostOneRequest {k : Nat} {s t : State} (hdedup : s.cfg.reqDedup = true) (hlow : StaysLow k s)
    (h : Sys2Proof.core.run k s = Host.Outcome.next t) : AtMostOneRequest s t := by
  induction k generalizing s with
  | zero =>
    cases h
    exact .inl (.refl _)
  | succ k ih =>
    obtain ⟨u, hstep, hrun⟩ := core_run_succ_cases h
    obtain ⟨-, hcfg⟩ := configurationNeverChanges
    have hcfg : u.cfg = s.cfg := hcfg s u hstep
    obtain ⟨hkeeps, -⟩ := hlow 0 s rfl
    obtain ⟨-, hmark⟩ := hlow 1 u (core_run_succ 0 hstep)
    have hmark : u.avail ≤ s.cfg.T := hcfg ▸ hmark (by omega) (by omega)
    have hfirst : AtMostOneRequest s u := step_atMostOneRequest hdedup hstep (hkeeps (by omega)) hmark
    exact hfirst.trans hcfg (ih (by rw [hcfg, hdedup]) (hlow.of_step hstep) hrun)

/-- Settles O21: the flag is what lets at most one request through, so the clauses of a step say when it changes, and a
run that never clears it is taken step by step. -/
theorem dedupAllowsOneRequestPerCrossing : Obligations.DedupAllowsOneRequestPerCrossing := by
  refine ⟨fun s t hdedup h => ⟨step_request_sets_flag hdedup h, step_sends_request_of_flag_set h,
    step_clears_flag_above_mark h, fun he => ?_, above_mark_or_emptiesRing_of_flag_cleared hdedup h⟩,
    fun k s t hdedup hlow h => ?_⟩
  · obtain ⟨hflag, -⟩ := step_requests_of_emptiesRing h he
    obtain ⟨-, hcfg⟩ := configurationNeverChanges
    rw [← hcfg s t h]
    exact ⟨hflag, exec_flowCheck_of_empty (step_avail_of_emptiesRing h he) hflag⟩
  · exact (run_atMostOneRequest hdedup hlow h).imp_left fun ⟨htx, _⟩ => htx

end Sys2Proof.Machine
end

section
/-! `GET_LINE`, `LINE_TICK` and `FRAME_TICK` (R186 to R191): each of the three things a fetch can do as a whole state,
under the condition that chooses it, and what a tick makes of it. -/

namespace Sys2Proof.Machine

/-! ## The fetch -/

/-- A row that was attempted last is not attempted again (R186). -/
theorem fetchLine_of_repeat {s : State} {row : Nat} (hrow : s.lastRow = some row) : fetchLine row s = (false, s) :=
  if_pos hrow

/-- An underrun spends the attempt of the row, and changes nothing else (R188, R222). -/
theorem fetchLine_of_underrun {s : State} {row : Nat} (hrow : s.lastRow ≠ some row) (hlt : s.avail < s.cfg.W) :
    fetchLine row s = (false, { s with lastRow := some row }) := by
  rcases fetchLine_cases row s with ⟨hlast, _⟩ | ⟨_, _, he⟩ | ⟨_, hle, _⟩
  · exact absurd hlast hrow
  · exact he
  · exact absurd hle hlt.not_ge

/-- A fetch that finds a line takes it, copies it to the window and counts it, with the flow check last (R187). -/
theorem fetchLine_of_line {s : State} {row : Nat} (hrow : s.lastRow ≠ some row) (hle : s.cfg.W ≤ s.avail) :
    fetchLine row s = (true, { s with
      mem := lineWrite s.cfg 0 (memRead s s.rc s.cfg.W) s.mem
      rc := advance s.cfg s.rc s.cfg.W
      avail := s.avail - s.cfg.W
      processed := raise s.cfg s.processed s.cfg.W
      lastRow := some row
      tx := if s.avail - s.cfg.W ≤ s.cfg.T ∧ ¬(s.cfg.reqDedup = true ∧ s.reqOutstanding = true)
        then s.tx ++ [s.cfg.cmdReq] else s.tx
      reqOutstanding := if s.avail - s.cfg.W ≤ s.cfg.T then s.cfg.reqDedup || s.reqOutstanding else false
      freeCount := s.freeCount + s.cfg.W }) := by
  rcases fetchLine_cases row s with ⟨hlast, _⟩ | ⟨_, hlt, _⟩ | ⟨_, _, he⟩
  · exact absurd hlast hrow
  · exact absurd hle hlt.not_ge
  · rw [he, checkFlow_eq]

/-- Whatever a fetch does, its row is the last one attempted (R186). -/
@[simp] theorem fetchLine_lastRow (row : Nat) (s : State) : (fetchLine row s).2.lastRow = some row := by
  rcases fetchLine_cases row s with ⟨hlast, he⟩ | ⟨_, _, he⟩ | ⟨_, _, he⟩ <;> rw [he]
  · exact hlast
  · rw [checkFlow_lastRow]

@[simp] theorem fetchLine_scanline (row : Nat) (s : State) : (fetchLine row s).2.scanline = s.scanline := by
  rcases fetchLine_cases row s with ⟨_, he⟩ | ⟨_, _, he⟩ | ⟨_, _, he⟩ <;> rw [he]
  rw [checkFlow_scanline]

@[simp] theorem fetchLine_inputs (row : Nat) (s : State) : (fetchLine row s).2.inputs = s.inputs := by
  rcases fetchLine_cases row s with ⟨_, he⟩ | ⟨_, _, he⟩ | ⟨_, _, he⟩ <;> rw [he]
  rw [checkFlow_inputs]

/-- A new row takes part in a fetch as the value put into `last_row` only (R194). -/
theorem fetchLine_of_new_rows {s : State} {row row' : Nat} (hrow : s.lastRow ≠ some row)
    (hrow' : s.lastRow ≠ some row') :
    fetchLine row' s = ((fetchLine row s).1, { (fetchLine row s).2 with lastRow := some row' }) := by
  rcases lt_or_ge s.avail s.cfg.W with hlt | hle
  · rw [fetchLine_of_underrun hrow hlt, fetchLine_of_underrun hrow' hlt]
  · rw [fetchLine_of_line hrow hle, fetchLine_of_line hrow' hle]

/-! ## The window after a fetch -/

/-- Byte `i` of the oldest line, where it holds a value, stands at `HOFF + i` after the copy (R186). -/
theorem lineWrite_memRead_window {s : State} (hwf : s.mem.wf) {i : Nat} (hi : i < s.cfg.W) {b : Byte}
    (hb : s.mem.read .storage (ringIndex s.cfg s.rc i) = some b) :
    (lineWrite s.cfg 0 (memRead s s.rc s.cfg.W) s.mem).read .lineBuf (lineIndex s.cfg i) = some b := by
  have hat := lineWrite_read_at s.cfg (memRead s s.rc s.cfg.W) 0 hwf i (by rwa [memRead_length])
  rwa [Nat.zero_add, memRead_getElem? s s.rc hi hb] at hat

/-- The copy of the oldest line leaves the margins of `line_buf` alone (R186). -/
theorem lineWrite_memRead_margin {s : State} (hwf : s.mem.wf) {a : Nat} (ha : ∀ i < s.cfg.W, lineIndex s.cfg i ≠ a) :
    (lineWrite s.cfg 0 (memRead s s.rc s.cfg.W) s.mem).read .lineBuf a = s.mem.read .lineBuf a := by
  refine lineWrite_read_outside s.cfg _ 0 hwf a fun k hk => ?_
  rw [Nat.zero_add]
  exact ha k (by rwa [memRead_length] at hk)

/-! ## The operations -/

theorem exec_getLine (row : Nat) (s : State) :
    exec (.getLine row) s = .next (setResult (.bit (fetchLine row s).1) (fetchLine row s).2) := rfl

theorem exec_lineTick (s : State) : exec .lineTick s = .next (setResult .none (tickLine s)) := rfl

/-- Settles O23: the repeat test, the underrun test and the fetch are the three cases of the operation. -/
theorem getLineAttemptsOncePerRowAndFetchesTheOldestLine :
    Obligations.GetLineAttemptsOncePerRowAndFetchesTheOldestLine := by
  refine fun s row => ⟨fun hlt => if_pos hlt, fun hrow => ?_, fun hrow hlt => ?_, fun hwf hrow hle => ?_⟩
  · rw [exec_getLine, fetchLine_of_repeat hrow]
    rfl
  · rw [exec_getLine, fetchLine_of_underrun hrow hlt]
    rfl
  · refine ⟨lineWrite s.cfg 0 (memRead s s.rc s.cfg.W) s.mem, ?_, fun i hi b hb => lineWrite_memRead_window hwf hi hb,
      fun a ha => lineWrite_memRead_margin hwf ha, lineWrite_read_storage s.cfg _ 0 s.mem⟩
    rw [exec_getLine, fetchLine_of_line hrow hle]
    rfl

/-- Settles O24: neither case of a new row reads the row. -/
theorem rowNumberSelectsNoBytes : Obligations.RowNumberSelectsNoBytes := by
  intro s t u row row' hrow hrow' ht hu
  rw [exec_getLine, fetchLine_of_new_rows hrow hrow'] at hu
  cases ht
  cases hu
  exact ⟨fetchLine_lastRow row s, rfl, rfl⟩

/-! ## The ticks -/

theorem visible_iff (c : Config) (pos : Nat) :
    visible c pos = true ↔ c.vOffset ≤ pos ∧ pos < c.vOffset + c.N * c.H := by
  simp [visible]

/-- Settles O25: the fetch by itself hands nothing over, so the one buffer added to `out` is `line_buf` as the fetch
leaves it. -/
theorem lineTickFetchesAndHandsOverWhenVisible : Obligations.LineTickFetchesAndHandsOverWhenVisible := by
  refine fun s => ⟨rfl, fun hblank => ?_, fun hfirst hlast => ?_⟩
  · have hvis : ¬visible s.cfg s.scanline = true := by
      rw [visible_iff]
      omega
    rw [exec_lineTick, tickLine_of_not_visible hvis]
    rfl
  · refine ⟨_, _, exec_getLine _ _, isLineBuffer_lineBuffer _, ?_⟩
    rw [exec_lineTick, tickLine_of_visible ((visible_iff _ _).2 ⟨hfirst, hlast⟩), handOver, fetchLine_out]
    rfl

/-- The `N` physical scanlines of source row `row` are visible, and ask for that row (R189). -/
theorem visible_and_sourceRow_of_row (c : Config) {row k : Nat} (hrow : row < c.H) (hk : k < c.N) :
    visible c (c.vOffset + c.N * row + k) = true ∧ sourceRow c (c.vOffset + c.N * row + k) = row := by
  have hend : c.N * row + c.N ≤ c.N * c.H := Nat.mul_le_mul_left c.N hrow
  refine ⟨(visible_iff _ _).2 (by omega), ?_⟩
  rw [sourceRow, Nat.add_assoc, Nat.add_sub_cancel_left, Nat.mul_add_div c.N_pos, Nat.div_eq_of_lt hk, Nat.add_zero]

/-- Settles O26: each of the scanlines asks for the same row, so only the first one finds another row in `last_row`. -/
theorem repeatScanlinesFetchNothing : Obligations.RepeatScanlinesFetchNothing := by
  intro s row k hrow hk hpos
  obtain ⟨hvis, hsource⟩ := visible_and_sourceRow_of_row s.cfg hrow hk
  rw [← hpos] at hvis hsource
  have htick := exec_lineTick s
  rw [tickLine_of_visible hvis, hsource] at htick
  refine ⟨fun hlast => ⟨lineBuffer s, isLineBuffer_lineBuffer s, ?_⟩, fun _ => ⟨_, htick, ?_, ?_⟩⟩
  · rw [htick, fetchLine_of_repeat (s := { s with scanline := nextScanline s.cfg s.scanline }) hlast]
    rfl
  · rw [setResult_lastRow, handOver_lastRow, fetchLine_lastRow]
  · rw [setResult_out, handOver_out, fetchLine_out, List.length_append, List.length_singleton]

/-- Settles O27: the frame tick writes two fields. -/
theorem frameTickRestartsTheRaster : Obligations.FrameTickRestartsTheRaster := fun _ => ⟨rfl, rfl⟩

end Sys2Proof.Machine
end

section
/-! What the consumer leaves alone (R74, R185): the two ticks and the fetch, on the fields that the producer owns. -/

namespace Sys2Proof.Machine

/-- `t` has the producer's state of `s`, and at most the bytes of `s` in the ring. -/
def ProducerStateKept (s t : State) : Prop :=
  (∀ a, t.mem.read .storage a = s.mem.read .storage a) ∧ t.wc = s.wc ∧ t.st = s.st ∧ t.received = s.received ∧
    t.frameCounter = s.frameCounter ∧ t.avail ≤ s.avail

theorem ProducerStateKept.refl (s : State) : ProducerStateKept s s := ⟨fun _ => rfl, rfl, rfl, rfl, rfl, le_rfl⟩

/-- A fetch reads `storage` and writes `line_buf`, and takes a line out of `avail` or nothing. -/
theorem fetchLine_producerStateKept (row : Nat) (s : State) : ProducerStateKept s (fetchLine row s).2 := by
  by_cases hrow : s.lastRow = some row
  · rw [fetchLine_of_repeat hrow]
    exact .refl s
  rcases lt_or_ge s.avail s.cfg.W with hlt | hle
  · rw [fetchLine_of_underrun hrow hlt]
    exact .refl s
  · rw [fetchLine_of_line hrow hle]
    exact ⟨lineWrite_read_storage s.cfg _ 0 s.mem, rfl, rfl, rfl, rfl, Nat.sub_le _ _⟩

/-- A line tick adds to its fetch the position and the buffer handed over. -/
theorem tickLine_producerStateKept (s : State) : ProducerStateKept s (tickLine s) := by
  rcases tickLine_cases s with ⟨_, he⟩ | ⟨_, he⟩ <;> rw [he]
  · exact .refl s
  · exact fetchLine_producerStateKept _ { s with scanline := nextScanline s.cfg s.scanline }

/-- Settles O49: the consumer's transactions are the two ticks and the direct fetch. -/
theorem consumerLeavesProducerStateAlone : Obligations.ConsumerLeavesProducerStateAlone := by
  intro s t tr rest hi hdomain h
  cases tr with
  | lineTick =>
    rw [step_of_decode_ok hi rfl] at h
    cases h
    exact tickLine_producerStateKept s.dequeue
  | frameTick =>
    rw [step_of_decode_ok hi rfl] at h
    cases h
    exact ProducerStateKept.refl s
  | getLine row =>
    rw [step_of_getLine h (by rw [hi, List.head?_cons])]
    exact fetchLine_producerStateKept row s.dequeue
  | init | rxBlock _ | pollTick | availLines => cases hdomain

end Sys2Proof.Machine
end

section
/-! The raster frame (R111, R192): how many buffers a run hands over is read off the pending transactions and the
position alone, so what is interleaved with the ticks does not count. -/

namespace Sys2Proof.Machine

/-! ## What a transaction does to the position, and whether it hands a buffer over -/

/-- The position after a transaction at a position (R30). -/
def positionAfter (c : Config) (pos : Nat) : Transaction → Nat
  | .init => 0
  | .rxBlock _ => pos
  | .lineTick => nextScanline c pos
  | .frameTick => 0
  | .getLine _ => pos
  | .pollTick => pos
  | .availLines => pos

/-- How many buffers a transaction at a position hands over: one for a line tick at a visible position (R189). -/
def buffersAt (c : Config) (pos : Nat) : Transaction → Nat
  | .init => 0
  | .rxBlock _ => 0
  | .lineTick => if visible c pos then 1 else 0
  | .frameTick => 0
  | .getLine _ => 0
  | .pollTick => 0
  | .availLines => 0

/-- How many buffers a list of transactions hands over from a position on. -/
def buffersFrom (c : Config) (pos : Nat) : List Transaction → Nat
  | [] => 0
  | tr :: trs => buffersAt c pos tr + buffersFrom c (positionAfter c pos tr) trs

/-! ## The step and the run -/

@[simp] theorem receiveBlock_inputs (data : List Byte) (s : State) : (receiveBlock data s).inputs = s.inputs := by
  rcases receiveBlock_cases data s with he | ⟨_, _, _, he⟩ | ⟨_, _, he⟩ | ⟨_, _, he⟩ | ⟨_, _, he⟩ <;> simp [he]

@[simp] theorem tickLine_inputs (s : State) : (tickLine s).inputs = s.inputs := by
  rcases tickLine_cases s with ⟨_, he⟩ | ⟨_, he⟩ <;> rw [he]
  rw [handOver_inputs, fetchLine_inputs]

@[simp] theorem tickLine_scanline (s : State) : (tickLine s).scanline = nextScanline s.cfg s.scanline := by
  rcases tickLine_cases s with ⟨_, he⟩ | ⟨_, he⟩ <;> rw [he]
  rw [handOver_scanline, fetchLine_scanline]

theorem tickLine_out_length (s : State) :
    (tickLine s).out.length = s.out.length + if visible s.cfg s.scanline then 1 else 0 := by
  split
  · rw [tickLine_of_visible ‹_›, handOver_out, fetchLine_out, List.length_append, List.length_singleton]
  · rw [tickLine_of_not_visible ‹_›, Nat.add_zero]

/-- The operation of a transaction moves the position and hands over as the transaction alone says. -/
theorem step_of_inputs_cons {s t : State} {tr : Transaction} {rest : List Transaction} (h : step s = .next t)
    (hi : s.inputs = tr :: rest) :
    t.inputs = rest ∧ t.scanline = positionAfter s.cfg s.scanline tr ∧
      t.out.length = s.out.length + buffersAt s.cfg s.scanline tr := by
  have hrest : s.dequeue.inputs = rest := by rw [State.dequeue_inputs, hi, List.tail_cons]
  rcases step_cases h with ⟨hnil, _⟩ | ⟨tr', rest', hi', h⟩
  · rw [hi] at hnil
    cases hnil
  obtain ⟨rfl, rfl⟩ := List.cons.inj (hi.symm.trans hi')
  rcases h with ⟨rfl, rfl⟩ | ⟨data, rfl, rfl⟩ | ⟨rfl, rfl⟩ | ⟨rfl, rfl⟩ | ⟨row, _, rfl, rfl⟩ | ⟨rfl, rfl⟩ | ⟨rfl, rfl⟩
  · exact ⟨hrest, rfl, rfl⟩
  · exact ⟨(receiveBlock_inputs data _).trans hrest, receiveBlock_scanline data _,
      congrArg List.length (receiveBlock_out data s.dequeue)⟩
  · exact ⟨(tickLine_inputs _).trans hrest, tickLine_scanline _, tickLine_out_length s.dequeue⟩
  · exact ⟨hrest, rfl, rfl⟩
  · exact ⟨(fetchLine_inputs row _).trans hrest, fetchLine_scanline row _,
      congrArg List.length (fetchLine_out row s.dequeue)⟩
  · exact ⟨(checkFlow_inputs _).trans hrest, checkFlow_scanline _, congrArg List.length (checkFlow_out s.dequeue)⟩
  · exact ⟨hrest, rfl, rfl⟩

/-- Transactions that the ports can carry all run, and hand over the buffers that `buffersFrom` counts. -/
theorem run_inputs {s : State} (hwf : s.InputsWellFormed) :
    ∃ t, Sys2Proof.core.run s.inputs.length s = Host.Outcome.next t ∧ t.inputs = [] ∧
      t.out.length = s.out.length + buffersFrom s.cfg s.scanline s.inputs := by
  induction hi : s.inputs generalizing s with
  | nil => exact ⟨s, rfl, hi, rfl⟩
  | cons tr rest ih =>
    obtain ⟨u, hstep⟩ := step_total hwf
    obtain ⟨hrest, hpos, hout⟩ := step_of_inputs_cons hstep hi
    obtain ⟨-, hcfg⟩ := configurationNeverChanges
    obtain ⟨t, hrun, hnil, hlen⟩ := ih (step_keeps_inputsWellFormed hstep hwf) hrest
    refine ⟨t, (core_run_succ _ hstep).trans hrun, hnil, ?_⟩
    rw [hlen, hout, hpos, hcfg s u hstep, buffersFrom, Nat.add_assoc]

/-! ## Counting the buffers of a raster frame -/

/-- A transaction that does not move the raster counts for nothing (R30, R189). -/
theorem positionAfter_and_buffersAt_of_not_movesRaster (c : Config) (pos : Nat) {tr : Transaction}
    (h : movesRaster tr = false) : positionAfter c pos tr = pos ∧ buffersAt c pos tr = 0 := by
  cases tr with
  | init | lineTick | frameTick => cases h
  | rxBlock _ | getLine _ | pollTick | availLines => exact ⟨rfl, rfl⟩

theorem buffersFrom_filter_movesRaster (c : Config) (pos : Nat) (trs : List Transaction) :
    buffersFrom c pos (trs.filter movesRaster) = buffersFrom c pos trs := by
  induction trs generalizing pos with
  | nil => rfl
  | cons tr trs ih =>
    by_cases h : movesRaster tr = true
    · rw [List.filter_cons_of_pos h, buffersFrom, buffersFrom, ih]
    · obtain ⟨hpos, hnone⟩ := positionAfter_and_buffersAt_of_not_movesRaster c pos (eq_false_of_ne_true h)
      rw [List.filter_cons_of_neg h, buffersFrom, hpos, hnone, Nat.zero_add, ih]

/-- The last `m` line ticks up to the end of the window: the position is that many before the end, and does not wrap
before the last of them, since the window fits the modulus (R9). -/
theorem buffersFrom_lineTicks (c : Config) {pos m : Nat} (h : pos + m = c.vOffset + c.N * c.H) :
    buffersFrom c pos (lineTicks m) = min m (c.N * c.H) := by
  induction m generalizing pos with
  | zero => rw [Nat.zero_min]; rfl
  | succ m ih =>
    have htick : buffersAt c pos .lineTick = if m < c.N * c.H then 1 else 0 := by
      have hvis : visible c pos = true ↔ m < c.N * c.H := by
        rw [visible_iff]
        omega
      exact if_congr hvis rfl rfl
    have hrest : buffersFrom c (nextScanline c pos) (lineTicks m) = min m (c.N * c.H) := by
      rcases Nat.eq_zero_or_pos m with rfl | hm
      · rw [Nat.zero_min]; rfl
      · have hfits := c.window_le_scanMod
        rw [nextScanline, Nat.mod_eq_of_lt (by omega)]
        exact ih (by omega)
    have hsplit : buffersFrom c pos (lineTicks (m + 1)) =
        buffersAt c pos .lineTick + buffersFrom c (nextScanline c pos) (lineTicks m) := rfl
    rw [hsplit, htick, hrest]
    split <;> omega

/-- The frame tick puts the position at 0, the whole window ahead (R191, R192). -/
theorem buffersFrom_rasterFrame (c : Config) (pos : Nat) : buffersFrom c pos (rasterFrame c) = c.N * c.H := by
  have hticks := buffersFrom_lineTicks c (Nat.zero_add (c.vOffset + c.N * c.H))
  calc buffersFrom c pos (rasterFrame c)
      = 0 + buffersFrom c 0 (lineTicks (c.vOffset + c.N * c.H)) := rfl
    _ = c.N * c.H := by rw [hticks, Nat.zero_add, Nat.min_eq_right (Nat.le_add_left _ _)]

/-- Settles O28: the run hands over what its transactions count, and those that do not move the raster count for
nothing. -/
theorem rasterFrameHandsOverEveryScanline : Obligations.RasterFrameHandsOverEveryScanline := by
  intro s hwf hraster
  obtain ⟨t, hrun, hnil, hlen⟩ := run_inputs hwf
  refine ⟨t, hrun, hnil, ?_⟩
  rw [hlen, ← buffersFrom_filter_movesRaster, hraster, buffersFrom_rasterFrame]

end Sys2Proof.Machine
end

section
/-! `INIT` and the query of the whole lines (R205, R207). What `INIT` alone does is said of every other operation: it
never returns to `ST_IDLE`, counts one frame at most, and writes `line_buf` in the image window only. -/

namespace Sys2Proof.Machine

/-! ## What is left to `INIT` -/

/-- From `s` to `t` nothing happens that R205 leaves to `INIT` alone. -/
def LeavesResetToInit (s t : State) : Prop :=
  (t.st = .idle → s.st = .idle) ∧
  (t.frameCounter = s.frameCounter ∨ t.frameCounter = raise s.cfg s.frameCounter 1) ∧
  (s.mem.wf → ∀ a, a < s.cfg.hOff ∨ s.cfg.hOff + s.cfg.W ≤ a → t.mem.read .lineBuf a = s.mem.read .lineBuf a)

/-- An operation that writes neither `st` nor `frame_counter` nor a memory leaves the reset to `INIT`. -/
theorem LeavesResetToInit.of_eq {s t : State} (hst : t.st = s.st) (hcount : t.frameCounter = s.frameCounter)
    (hmem : t.mem = s.mem) : LeavesResetToInit s t :=
  ⟨fun hidle => hst.symm.trans hidle, .inl hcount, fun _ a _ => congrArg (Memory.read · .lineBuf a) hmem⟩

theorem LeavesResetToInit.refl (s : State) : LeavesResetToInit s s := .of_eq rfl rfl rfl

/-! ## The shared operations -/

/-- A marker leads to `ST_RECEIVING` or `ST_COMPLETE`, a completed frame is one more, and a payload goes to `storage`
(R145 to R151). -/
theorem receiveBlock_leavesResetToInit (data : List Byte) (s : State) : LeavesResetToInit s (receiveBlock data s) := by
  refine ⟨fun hidle => ?_, ?_, fun _ a _ => Memory.read_lineBuf_congr (receiveBlock_lineBuf data s) a⟩
  · rw [receiveBlock_st] at hidle
    split at hidle
    · cases hidle
    split at hidle
    · cases hidle
    · exact hidle
  · rw [receiveBlock_frameCounter]
    split
    · exact .inr rfl
    · exact .inl rfl

/-- A ring write goes to `storage` (R121). -/
theorem ringWrite_leavesResetToInit (data : List Byte) (s : State) : LeavesResetToInit s (ringWrite data s) :=
  ⟨fun hidle => (ringWrite_st data s).symm.trans hidle, .inl (ringWrite_frameCounter data s), fun _ a _ => by
    rw [ringWrite_mem, memWrite_read_lineBuf]⟩

/-- A payload block is a ring write in reception and nothing else (R151, R154). -/
theorem payload_leavesResetToInit (data : List Byte) (s : State) : LeavesResetToInit s (payload data s) := by
  by_cases hst : s.st = .receiving
  · rw [payload_of_receiving hst]
    exact ringWrite_leavesResetToInit data s
  · rw [payload_of_not_receiving hst]
    exact .refl s

/-- A fetch copies its line to the image window, so the margins keep their bytes (R186). -/
theorem fetchLine_read_margin {s : State} (row : Nat) (hwf : s.mem.wf) {a : Nat}
    (ha : a < s.cfg.hOff ∨ s.cfg.hOff + s.cfg.W ≤ a) :
    (fetchLine row s).2.mem.read .lineBuf a = s.mem.read .lineBuf a := by
  rcases fetchLine_cases row s with ⟨_, he⟩ | ⟨_, _, he⟩ | ⟨_, _, he⟩ <;> rw [he]
  rw [checkFlow_mem]
  refine lineWrite_memRead_margin hwf fun i hi => ?_
  rw [lineIndex]
  omega

theorem fetchLine_leavesResetToInit (row : Nat) (s : State) : LeavesResetToInit s (fetchLine row s).2 :=
  ⟨fun hidle => (fetchLine_st row s).symm.trans hidle, .inl (fetchLine_frameCounter row s),
    fun hwf _ ha => fetchLine_read_margin row hwf ha⟩

/-- A line tick adds to its fetch the position and the buffer handed over. -/
theorem tickLine_leavesResetToInit (s : State) : LeavesResetToInit s (tickLine s) := by
  rcases tickLine_cases s with ⟨_, he⟩ | ⟨_, he⟩ <;> rw [he]
  · exact .refl s
  · exact fetchLine_leavesResetToInit _ { s with scanline := nextScanline s.cfg s.scanline }

/-! ## The operations -/

/-- Every operation but `INIT` leaves the reset to it; the commands are the one-byte blocks of their bytes. -/
theorem exec_leavesResetToInit {i : Instr} {s t : State} (hi : i ≠ .init) (h : exec i s = .next t) :
    LeavesResetToInit s t := by
  cases i with
  | init => exact absurd rfl hi
  | cmdReq | cmdIdle | cmdUnknown | rxEmpty | getAvailableLines | frameTick | rbFlush | txEmit =>
    cases h; exact .refl s
  | cmdData => cases h; exact receiveBlock_cmdData s ▸ receiveBlock_leavesResetToInit [s.cfg.cmdData] s
  | cmdEnd => cases h; exact receiveBlock_cmdEnd s ▸ receiveBlock_leavesResetToInit [s.cfg.cmdEnd] s
  | cmdSof => cases h; exact receiveBlock_cmdSof s ▸ receiveBlock_leavesResetToInit [s.cfg.cmdSof] s
  | rxBlock data => cases h; exact receiveBlock_leavesResetToInit data s
  | rxPayload data => cases h; exact payload_leavesResetToInit data s
  | rbWrite data => cases h; exact ringWrite_leavesResetToInit data s
  | rbReadLine => cases h; exact .of_eq (ringReadLine_st s) (ringReadLine_frameCounter s) (ringReadLine_mem s)
  | getLine row => cases h; exact fetchLine_leavesResetToInit row s
  | lineTick => cases h; exact tickLine_leavesResetToInit s
  | txReq => cases h; exact .of_eq (sendRequest_st s) (sendRequest_frameCounter s) (sendRequest_mem s)
  | txAck => cases h; exact .of_eq (sendAck_st s) (sendAck_frameCounter s) (sendAck_mem s)
  | flowCheck => cases h; exact .of_eq (checkFlow_st s) (checkFlow_frameCounter s) (checkFlow_mem s)

/-- Settles O2: `INIT` writes the reset table over any state, its own next state included; the last clause is what every
other operation leaves to it. -/
theorem initAloneResetsAllAndRecallsNothing : Obligations.InitAloneResetsAllAndRecallsNothing := by
  refine fun s => ⟨rfl, rfl, fun t h => ?_, fun _ _ => exec_leavesResetToInit⟩
  cases h
  rfl

/-! ## The query -/

/-- Settles O29: the quotient by the line width, which is positive (R9), brackets `avail`; a full ring is `CAP_LINES`
lines (R8). -/
theorem availableLinesIsTheFloor : Obligations.AvailableLinesIsTheFloor := by
  refine fun s => ⟨rfl, wholeLines s, rfl, rfl, Nat.div_mul_le_self _ _,
    (Nat.div_lt_iff_lt_mul s.cfg.W_pos).1 (Nat.lt_succ_self _), fun hfull => ?_⟩
  rw [wholeLines, hfull, s.cfg.C_eq, Nat.mul_div_cancel _ s.cfg.W_pos]

end Sys2Proof.Machine
end

section
/-! The reset table (R48, R250): `initialise` writes it over any state, and power-on reset is a fixed point of
`initialise`, so the two resets give the same table. -/

namespace Sys2Proof.Machine

/-- `initialise` leaves both memories empty and every register at its reset value (R205). -/
theorem initialise_isReset (s : State) : (initialise s).IsReset :=
  ⟨initialise_wc s, initialise_rc s, initialise_avail s, initialise_st s, initialise_received s,
    initialise_processed s, initialise_frameCounter s, Memory.read_empty_lineBuf, initialise_scanline s,
    initialise_lastRow s, initialise_reqOutstanding s, Memory.read_empty_storage⟩

/-- Power-on reset already has every field that `INIT` writes at the value it writes (R48). -/
theorem initialise_reset : initialise State.reset = State.reset := rfl

/-- The reset table says nothing about the result port. -/
theorem State.IsReset.setResult {s : State} (h : s.IsReset) (r : Result) :
    (Sys2Proof.Machine.setResult r s).IsReset := h

theorem exec_init (s : State) : exec .init s = .next (setResult .none (initialise s)) := rfl

/-- Settles O1: both resets are what `initialise` leaves, of power-on reset itself and of the state `INIT` finds. -/
theorem powerOnAndInitGiveTheResetTable : Obligations.PowerOnAndInitGiveTheResetTable :=
  ⟨initialise_reset ▸ initialise_isReset State.reset,
    fun s => ⟨_, exec_init s, (initialise_isReset s).setResult .none⟩⟩

end Sys2Proof.Machine
end

section
/-! Two choices of the model, each as a whole state: a write under `Drop` above the capacity (R32 gives `C - avail` no
meaning there), and `TX_REQ` as an operation of its own (R94, R173). -/

namespace Sys2Proof.Machine

/-- Under `Drop` a ring that is full, or above its capacity, accepts no byte. -/
theorem acceptedCount_of_drop_of_C_le_avail {s : State} (hp : s.cfg.overflowPolicy = .drop) (hle : s.cfg.C ≤ s.avail)
    (data : List Byte) : acceptedCount data s = 0 := by
  rw [← acceptedBytes_length, acceptedBytes_of_drop hp, Nat.sub_eq_zero_of_le hle, List.take_zero, List.length_nil]

/-- Settles O12: every effect of the write is in the number of bytes accepted, which is 0. -/
theorem dropAboveCapacityAcceptsNothing : Obligations.DropAboveCapacityAcceptsNothing := by
  intro s data hp habove
  have hnone : acceptedCount data s = 0 := acceptedCount_of_drop_of_C_le_avail hp habove.le data
  refine ⟨setResult (.accepted (acceptedCount data s)) (ringWrite data s), rfl, ?_, ?_, ?_, ?_, fun _ hst => ?_⟩
  · rw [hnone]
    rfl
  · rw [setResult_mem, ringWrite_mem, hnone]
    rfl
  · rw [setResult_avail, ringWrite_avail, hnone]
    rfl
  · rw [setResult_wc, ringWrite_wc, hnone]
    rfl
  · have hcounted : acceptPayload data s = { ringWrite data s with received := raise s.cfg s.received 0 } := by
      rw [acceptPayload, hnone]
    exact congrArg (answer .none) ((payload_of_receiving hst data).trans hcounted)

/-- A request appends its byte, and sets the flag only in the de-duplicating variant (R173, R174). -/
theorem sendRequest_eq (s : State) :
    sendRequest s =
      { s with tx := s.tx ++ [s.cfg.cmdReq], reqOutstanding := s.cfg.reqDedup || s.reqOutstanding } := by
  cases h : s.cfg.reqDedup with
  | false => exact sendRequest_of_not_dedup h
  | true => exact sendRequest_of_dedup h

/-- Settles O18: the operation is the emission of a request, whole. -/
theorem txReqSendsTheRequestByte : Obligations.TxReqSendsTheRequestByte :=
  fun s => congrArg (answer .none) (sendRequest_eq s)

end Sys2Proof.Machine
end
